-- ==== Sys2Proof/Word.lean ====
section
/-! DEFINITION. The widths the spec fixes: 64-bit register words and limbs (00_scope.md R9), bytes of a bus word
(20_memory.md R75), and the index of a big register (30_encoding.md R102). -/

namespace Sys2Proof

/-- A 64-bit register, limb or bus word (R9, R74). -/
abbrev Word := BitVec 64

/-- One byte lane of the bus word (R75). -/
abbrev Byte := BitVec 8

/-- The index of a big register, V0 .. V15 (R32, R102). -/
abbrev Reg := Fin 16

end Sys2Proof
end

