-- ==== Sys2Proof/Config.lean ====
section
/-! DEFINITION. What is fixed for one CORE (00_scope.md R9, R20): its parameters, the `ID` constant, and the free
values of reads while busy (20_memory.md R83). -/

namespace Sys2Proof

/-- The parameters a platform fixes (R9; 93_implementation_defined.md section 4). `HOST_ORDERING` is no datum: accesses
stand in the agenda in the order in which they reach the CORE (log 2). -/
structure Config where
  /-- MAXLIMBS, the capacity of a big register in limbs, 2 .. 512. -/
  maxLimbs : Nat
  /-- BASE, the bus address of offset 0, a multiple of 0x20000. -/
  base : Nat
  /-- IRQ_LINE, the platform interrupt line that `IRQ` drives. -/
  irqLine : Nat
  deriving DecidableEq, Repr

/-- The size of the register window (R70). -/
def Config.windowBytes : Nat := 0x20000

/-- The ranges R9 gives the parameters. -/
def Config.wf (c : Config) : Bool :=
  decide (2 ≤ c.maxLimbs) && decide (c.maxLimbs ≤ 512) && c.base % Config.windowBytes == 0

/-- DESIGN CHOICE (log 1, unsafe): the configuration of `State.reset`. MAXLIMBS is R9's suggested value. -/
def Config.suggested : Config := { maxLimbs := 64, base := 0, irqLine := 0 }

/-- `ID` (10_state.md R44): SPECREV 1, SRCREV 7, TAG "EPC1". -/
def Config.idValue : Word := 0x0001000745504331#64

/-- `PARAM` (10_state.md R45): MAXLIMBS in 15:0, NREG = 16 in 23:16, LIMBBITS = 64 in 31:24, zero above. -/
def Config.paramValue (c : Config) : Word :=
  0#32 ++ 64#8 ++ 16#8 ++ BitVec.ofNat 16 c.maxLimbs

/-- The `n`-th free value: what the `n`-th read of `LEN` or of a limb while busy returns (R83, log 4). It has no body,
so no proof can see a value of it. -/
opaque Config.freeWord : Nat → Word

end Sys2Proof
end

