-- ==== Sys2Proof/Machine/State.lean ====
section
/-! DEFINITION. The state of the CORE (10_state.md R30), the host's side of the register window as plain data, the
reasons a step can stop, and the state after reset (R52). -/

namespace Sys2Proof.Machine

/-- The error codes a command can raise (60_exceptions.md R221). -/
inductive CommandError where
  /-- Code 1: a zero divisor or modulus (R223). -/
  | divisionByZero
  /-- Code 2: SUB with minuend < subtrahend (R224). -/
  | underflow
  /-- Code 3: the exact result needs more than MAXLIMBS limbs (R225). -/
  | capacity
  /-- Code 4: no command, or one register named for two results (R222). -/
  | illegalCommand
  deriving DecidableEq, Repr

/-- The values of `STATUS.CR` (10_state.md R41). -/
inductive CompareResult where
  /-- 0b00. -/
  | equal
  /-- 0b01. -/
  | less
  /-- 0b10. -/
  | greater
  /-- 0b11: no compare has run since reset. -/
  | none
  deriving DecidableEq, Repr

/-- The state bits of `CTRL` (10_state.md R46); SRST is an action, not state (R30). -/
structure Ctrl where
  /-- Interrupt enable. -/
  ie : Bool
  /-- Exponent window width, legal values 1 .. 6. -/
  expwin : BitVec 3
  /-- Reduction-method hint. -/
  redhint : BitVec 2
  deriving DecidableEq, Repr

/-- The state bits of `STATUS` (10_state.md R47). BUSY is no field: it is 1 exactly when a command is in flight
(R37, log 9). -/
structure Status where
  /-- A command has completed since the last accept or clear. -/
  done : Bool
  /-- The last completed command ended in an error. -/
  err : Bool
  /-- ERRCODE; `none` is code 0, the reserved codes 5 .. 15 are never produced (60_exceptions.md R221, log 10). -/
  errcode : Option CommandError
  /-- Compare result. -/
  cr : CompareResult
  /-- Sign of the EGCD coefficient x (R36). -/
  xneg : Bool
  /-- Sign of the EGCD coefficient y (R36). -/
  yneg : Bool
  /-- A host write was dropped while a command was in flight (20_memory.md R82). -/
  ovr : Bool
  deriving DecidableEq, Repr

/-- What a host access does. -/
inductive AccessKind where
  | read
  | write (data : Word)
  deriving DecidableEq, Repr

/-- One host access on the bus: its bus address, its width in bits, and what it does (20_memory.md R70, R74). -/
structure Access where
  addr : Nat
  width : Nat
  kind : AccessKind
  deriving DecidableEq, Repr

/-- What can happen next (00_scope.md R19, 20_memory.md R86, 70_reset_and_hazards.md R260). -/
inductive Event where
  /-- The CORE performs the host's next access. -/
  | access (a : Access)
  /-- The CORE completes the command in flight, if there is one. -/
  | coreTurn
  /-- The platform asserts and releases the reset input. -/
  | hardReset
  deriving DecidableEq, Repr

/-- What a completed 64-bit read returned to the host (00_scope.md R15). -/
structure ReadReply where
  off : Nat
  data : Word
  deriving DecidableEq, Repr

/-- The HOST fault `BUS_ERROR(off, width)` (20_memory.md R74). -/
structure BusError where
  off : Nat
  width : Nat
  deriving DecidableEq, Repr

/-- The machine. The fields `v` to `inflight` are the spec's architectural state (10_state.md R30); `cfg` is its
configuration, constant along every run (log 1); the last four are the model's own record of the host side
(log 2, 4, 5, 6). -/
structure State where
  /-- MAXLIMBS, BASE, IRQ_LINE (00_scope.md R9). -/
  cfg : Config
  /-- V0 .. V15, natural numbers (R32). -/
  v : Vector Nat 16
  /-- SCALAR (R35). -/
  scalar : Word
  /-- CTRL (R46). -/
  ctrl : Ctrl
  /-- STATUS (R47). -/
  status : Status
  /-- INFLIGHT: the accepted 64-bit `CMD` value, or none (R37). -/
  inflight : Option Word
  /-- What happens next, in order; when empty, the CORE moves (log 2). -/
  agenda : List Event
  /-- What host reads returned, newest first (log 6). -/
  replies : List ReadReply
  /-- The bus errors the host got, newest first, never cleared (60_exceptions.md R244, log 5). -/
  busErrors : List BusError
  /-- How many free values reads while busy have taken (R83, log 4). -/
  draws : Nat
  deriving DecidableEq, Repr

/-- Why a step stops the model. -/
inductive Fault where
  /-- Raised by a host access whose bus address lies outside the window (20_memory.md R70): it is no access to the
  CORE. Safe: the model stops where the CORE, which does not see the access, goes on (log 7). -/
  | outsideWindow (addr : Nat)
  deriving DecidableEq, Repr

/-- Why an instruction has no meaning in the model. -/
inductive Refusal where
  /-- Raised by exec's arm of an instruction without a meaning; no arm of this model does. Safe. -/
  | notModelled (mnemonic : String)
  deriving DecidableEq, Repr

/-- CTRL after reset (R52). -/
def Ctrl.afterReset : Ctrl := { ie := false, expwin := 1, redhint := 0 }

/-- STATUS after reset (R52). -/
def Status.afterReset : Status :=
  { done := false, err := false, errcode := none, cr := .none, xneg := false, yneg := false, ovr := false }

/-- Every piece of state at the reset value of R52, for any configuration, with nothing on the host side. -/
def State.resetWith (cfg : Config) : State :=
  { cfg := cfg
    v := Vector.replicate 16 0
    scalar := 0
    ctrl := Ctrl.afterReset
    status := Status.afterReset
    inflight := none
    agenda := []
    replies := []
    busErrors := []
    draws := 0 }

/-- The machine right after reset (R52, R260, R261), at the suggested configuration (log 1). -/
def State.reset : State := State.resetWith Config.suggested

end Sys2Proof.Machine
end

