-- ==== Sys2Proof/Machine/Limbs.lean ====
section
/-! DEFINITION. The limbs of a natural number (00_scope.md R13, R17). -/

namespace Sys2Proof.Machine

/-- `limb(v, i) = v[64·i+63 : 64·i]` (R13). -/
def limb (v i : Nat) : Nat := v / 2 ^ (64 * i) % 2 ^ 64

/-- `nlimbs(v)`, the canonical limb count: 1 for zero, else the least n with v < 2^(64·n) (R13). -/
def nlimbs (v : Nat) : Nat := if v = 0 then 1 else Nat.log2 v / 64 + 1

/-- `fits(v)`: v is representable in a big register of `maxLimbs` limbs (R17). -/
def fits (maxLimbs v : Nat) : Bool := decide (nlimbs v ≤ maxLimbs)

/-- Limb `i` of `v` replaced by `x`, every other limb kept (20_memory.md R80). -/
def replaceLimb (v i x : Nat) : Nat := v - limb v i * 2 ^ (64 * i) + x * 2 ^ (64 * i)

end Sys2Proof.Machine
end

