-- ==== Sys2Proof/Machine/Flags.lean ====
section
/-! DEFINITION. Every flag computation of the spec: the compare result (41_arithmetic_kernel.md R131), the signs of the
Bezout coefficients (42_number_theory.md R180, R183), and the register views of CTRL and STATUS (10_state.md R46,
R47; 20_memory.md R78, R79). -/

namespace Sys2Proof.Machine

/-- The limb loop of R131: limbs n − 1 down to 0, the first difference decides. -/
def compareLimbs (a b : Nat) : Nat → CompareResult
  | 0 => .equal
  | i + 1 =>
    if limb a i < limb b i then .less
    else if limb b i < limb a i then .greater
    else compareLimbs a b i

/-- `compare(a, b)` as R131 states it: limb counts first, then limbs from the top. -/
def compareValues (a b : Nat) : CompareResult :=
  if nlimbs a < nlimbs b then .less
  else if nlimbs b < nlimbs a then .greater
  else compareLimbs a b (nlimbs a)

/-- The sign bit of a Bezout coefficient: 1 means negative, zero has sign 0 (R183). -/
def signBit (x : Int) : Bool := decide (x < 0)

/-- The 2-bit encoding of CR (10_state.md R41). -/
def CompareResult.code : CompareResult → BitVec 2
  | .equal => 0b00
  | .less => 0b01
  | .greater => 0b10
  | .none => 0b11

/-- The 4-bit code of an error (60_exceptions.md R221). -/
def CommandError.code : CommandError → BitVec 4
  | .divisionByZero => 1
  | .underflow => 2
  | .capacity => 3
  | .illegalCommand => 4

/-- The ERRCODE field: 0 when there is no error (60_exceptions.md R221). -/
def errcodeField : Option CommandError → BitVec 4
  | none => 0
  | some e => e.code

/-- STATUS as a read returns it, from OVR in bit 11 down to BUSY in bit 0 (R47, R78). -/
def Status.word (st : Status) (busy : Bool) : Word :=
  0#52 ++ BitVec.ofBool st.ovr ++ BitVec.ofBool st.yneg ++ BitVec.ofBool st.xneg ++ st.cr.code
    ++ errcodeField st.errcode ++ BitVec.ofBool st.err ++ BitVec.ofBool st.done ++ BitVec.ofBool busy

/-- The W1C bits of a STATUS write: bit 1 clears DONE, bit 2 clears ERR and ERRCODE, bit 11 clears OVR (R79). -/
def Status.writeOneToClear (st : Status) (x : Word) : Status :=
  { st with
    done := st.done && !x.getLsbD 1
    err := st.err && !x.getLsbD 2
    errcode := if x.getLsbD 2 then none else st.errcode
    ovr := st.ovr && !x.getLsbD 11 }

/-- CTRL as a read returns it: REDHINT in 5:4, EXPWIN in 3:1, IE in bit 0, SRST reads as zero (R46, R78). -/
def Ctrl.word (c : Ctrl) : Word :=
  0#57 ++ 0#1 ++ c.redhint ++ c.expwin ++ BitVec.ofBool c.ie

/-- EXPWIN is WARL: 0 and 7 are stored as 1 (R46). -/
def legalExpwin (x : BitVec 3) : BitVec 3 := if x = 0 ∨ x = 7 then 1 else x

/-- What a CTRL write without the soft-reset bit stores (R79). -/
def Ctrl.ofWord (x : Word) : Ctrl :=
  { ie := x.getLsbD 0, expwin := legalExpwin (x.extractLsb' 1 3), redhint := x.extractLsb' 4 2 }

end Sys2Proof.Machine
end

