-- ==== Sys2Proof/Machine/Ops.lean ====
section
/-! DEFINITION. The named operations on the state: registers, accept (10_state.md R38), completion with staged writes
(R39), the entry of an error (60_exceptions.md R229) and the return from one (R230), reset
(70_reset_and_hazards.md R260, R262), and the interrupt output (60_exceptions.md R234). -/

namespace Sys2Proof.Machine

/-- `V[r]` read (00_scope.md R14). -/
def State.reg (s : State) (r : Reg) : Nat := s.v[r.val]

/-- `V[r] <- x` (00_scope.md R14). -/
def State.setReg (s : State) (r : Reg) (x : Nat) : State := { s with v := s.v.set r.val x }

/-- STATUS.BUSY: a command is in flight (10_state.md R37). -/
def State.busy (s : State) : Bool := s.inflight.isSome

/-- The `IRQ` output: IE and DONE, at every moment (60_exceptions.md R234). -/
def State.irq (s : State) : Bool := s.ctrl.ie && s.status.done

/-- The level the CORE drives on a platform interrupt line: IRQ on IRQ_LINE, nothing on the others (R234). -/
def State.drivesLine (s : State) (line : Nat) : Bool := line == s.cfg.irqLine && s.irq

/-- The writes a successful command stages (10_state.md R39): destination registers in field order, CR, and the two
signs. -/
structure Staged where
  writes : List (Reg × Nat)
  cr : Option CompareResult
  signs : Option (Bool × Bool)
  deriving DecidableEq, Repr

/-- Nothing is staged (43_data_movement.md R200). -/
def Staged.nothing : Staged := { writes := [], cr := none, signs := none }

/-- Register writes only (30_encoding.md R105). -/
def Staged.regs (ws : List (Reg × Nat)) : Staged := { writes := ws, cr := none, signs := none }

/-- All staged register writes applied to the register file (10_state.md R39). -/
def applyWrites (v : Vector Nat 16) : List (Reg × Nat) → Vector Nat 16
  | [] => v
  | (r, x) :: rest => applyWrites (v.set r.val x) rest

/-- STATUS at an erring completion: DONE, ERR and the code; CR, XNEG, YNEG and OVR stay (R39, R227). -/
def Status.failed (st : Status) (e : CommandError) : Status :=
  { st with done := true, err := true, errcode := some e }

/-- STATUS at a successful completion, with the staged flags (R39, R41, R36). -/
def Status.succeeded (st : Status) (w : Staged) : Status :=
  { done := true
    err := false
    errcode := none
    cr := w.cr.getD st.cr
    xneg := (w.signs.map Prod.fst).getD st.xneg
    yneg := (w.signs.map Prod.snd).getD st.yneg
    ovr := st.ovr }

/-- The entry of an error, the CORE's one exception: completion with `Err(code)` and nothing else (60_exceptions.md
R220, R227, R229). -/
def State.completeError (s : State) (e : CommandError) : State :=
  { s with status := s.status.failed e, inflight := none }

/-- Completion with `Ok(staged)`: every staged write at once (10_state.md R39). -/
def State.completeOk (s : State) (w : Staged) : State :=
  { s with v := applyWrites s.v w.writes, status := s.status.succeeded w, inflight := none }

/-- The completion of the command in flight with the result of `Execute` (10_state.md R39). -/
def State.complete (s : State) (r : Except CommandError Staged) : State :=
  match r with
  | .ok w => s.completeOk w
  | .error e => s.completeError e

/-- The return from an error: the host's acknowledgement by a STATUS write (60_exceptions.md R230). -/
def State.acknowledge (s : State) (x : Word) : State :=
  { s with status := s.status.writeOneToClear x }

/-- Reset, hard or soft: every piece of architectural state takes its value of R52; the configuration and the host side
stay (70_reset_and_hazards.md R260, R262). -/
def State.hardReset (s : State) : State :=
  { State.resetWith s.cfg with
    agenda := s.agenda, replies := s.replies, busErrors := s.busErrors, draws := s.draws }

/-- A host write dropped because a command is in flight: only OVR changes (20_memory.md R82). -/
def State.dropWrite (s : State) : State := { s with status := { s.status with ovr := true } }

/-- A write that BUSY gates: dropped while a command is in flight, else performed (20_memory.md R82). -/
def State.unlessBusy (s : State) (t : State) : State := if s.busy then s.dropWrite else t

/-- Accept: the host's write to `CMD` (10_state.md R38). -/
def State.accept (s : State) (x : Word) : State :=
  s.unlessBusy
    { s with
      inflight := some x
      status := { s.status with done := false, err := false, errcode := none } }

/-- The host's write to `CTRL` (10_state.md R46): a soft reset when bit 6 is set, else the fields are stored. -/
def State.writeCtrl (s : State) (x : Word) : State :=
  if x.getLsbD 6 then s.hardReset else { s with ctrl := Ctrl.ofWord x }

/-- The host's write to `SCALAR` (10_state.md R49). -/
def State.writeScalar (s : State) (x : Word) : State := s.unlessBusy { s with scalar := x }

/-- The host's write to `V[r].LIMB[i]` with i < MAXLIMBS (20_memory.md R80). -/
def State.writeLimb (s : State) (r : Reg) (i : Nat) (x : Word) : State :=
  s.unlessBusy (s.setReg r (replaceLimb (s.reg r) i x.toNat))

end Sys2Proof.Machine
end

