-- ==== Sys2Proof/Machine/Operands.lean ====
section
/-! DEFINITION. The two operand forms of EPC-1, a big register and `SCALAR` (30_encoding.md R102, R103), and the checks
the command rules make on operands and results: a zero divisor or modulus (60_exceptions.md R223), the capacity of a
destination (R225), and two results in one register (30_encoding.md R109). -/

namespace Sys2Proof.Machine

/-- The 64-bit scalar operand, used as is (R103). -/
def State.scalarOperand (s : State) : Nat := s.scalar.toNat

/-- A result that goes to `V[d]` if it fits, else CAPACITY (R225). -/
def stageIfFits (s : State) (d : Reg) (x : Nat) : Except CommandError Staged :=
  if fits s.cfg.maxLimbs x then .ok (.regs [(d, x)]) else .error .capacity

/-- A result that needs a non-zero divisor or modulus, else DIVISION_BY_ZERO (R223). -/
def stageIfNonzero (m : Nat) (w : Staged) : Except CommandError Staged :=
  if m = 0 then .error .divisionByZero else .ok w

/-- A result that needs different destinations, else ILLEGAL_COMMAND before any operand is examined (R109, R226). -/
def stageIfDistinct (distinct : Bool) (r : Except CommandError Staged) : Except CommandError Staged :=
  if distinct then r else .error .illegalCommand

/-- The `Ok` of the completion step as the outcome of an instruction (10_state.md R39). -/
def State.finish (s : State) (r : Except CommandError Staged) : Host.Outcome State Fault Refusal :=
  .next (s.complete r)

end Sys2Proof.Machine
end

