-- ==== Sys2Proof/Machine/ArithmeticKernel.lean ====
section
/-! DEFINITION. The commands of the arithmetic kernel: CMP, ADD, SUB, MULS, MUL, DIV, MOD (41_arithmetic_kernel.md). -/

namespace Sys2Proof.Machine

/-- CMP (R131): writes CR only. -/
def execCmp (a b : Reg) (s : State) : Host.Outcome State Fault Refusal :=
  s.finish (.ok { Staged.nothing with cr := some (compareValues (s.reg a) (s.reg b)) })

/-- ADD (R132). -/
def execAdd (d a b : Reg) (s : State) : Host.Outcome State Fault Refusal :=
  s.finish (stageIfFits s d (s.reg a + s.reg b))

/-- SUB (R133). -/
def execSub (d a b : Reg) (s : State) : Host.Outcome State Fault Refusal :=
  s.finish (if s.reg a < s.reg b then .error .underflow else .ok (.regs [(d, s.reg a - s.reg b)]))

/-- MULS (R134). -/
def execMuls (d a : Reg) (s : State) : Host.Outcome State Fault Refusal :=
  s.finish (stageIfFits s d (s.reg a * s.scalarOperand))

/-- MUL (R135). -/
def execMul (d a b : Reg) (s : State) : Host.Outcome State Fault Refusal :=
  s.finish (stageIfFits s d (s.reg a * s.reg b))

/-- DIV (R136): quotient to `q`, remainder to `r`; for b > a this is (0, a). -/
def execDiv (q r a b : Reg) (s : State) : Host.Outcome State Fault Refusal :=
  s.finish (stageIfDistinct (q != r)
    (stageIfNonzero (s.reg b) (.regs [(q, s.reg a / s.reg b), (r, s.reg a % s.reg b)])))

/-- MOD (R137). -/
def execMod (d a m : Reg) (s : State) : Host.Outcome State Fault Refusal :=
  s.finish (stageIfNonzero (s.reg m) (.regs [(d, s.reg a % s.reg m)]))

end Sys2Proof.Machine
end

