-- ==== Sys2Proof/Machine/DataMovement.lean ====
section
/-! DEFINITION. The data-movement commands: NOP, CLR, MOV, LDS (43_data_movement.md). -/

namespace Sys2Proof.Machine

/-- NOP (R200): nothing is staged; the completion updates still happen. -/
def execNop (s : State) : Host.Outcome State Fault Refusal := s.finish (.ok .nothing)

/-- CLR (R201). -/
def execClr (d : Reg) (s : State) : Host.Outcome State Fault Refusal := s.finish (.ok (.regs [(d, 0)]))

/-- MOV (R202). -/
def execMov (d a : Reg) (s : State) : Host.Outcome State Fault Refusal := s.finish (.ok (.regs [(d, s.reg a)]))

/-- LDS (R203). -/
def execLds (d : Reg) (s : State) : Host.Outcome State Fault Refusal :=
  s.finish (.ok (.regs [(d, s.scalarOperand)]))

end Sys2Proof.Machine
end

