-- ==== Sys2Proof/Machine/NumberTheory.lean ====
section
/-! DEFINITION. The number-theoretic commands: MODPOW, MODMUL, GCD, EGCD, MODINV (42_number_theory.md), and the
algorithms that give their values (R171; 00_scope.md R17). Each loop runs on a bound of its number of turns. -/

namespace Sys2Proof.Machine

/-- The loop of R171 from accumulator `acc`, base `x` and exponent `e`; one turn per exponent bit. -/
def powLoop (m : Nat) : Nat → Nat → Nat → Nat → Nat
  | 0, acc, _, _ => acc
  | n + 1, acc, x, e =>
    if e = 0 then acc
    else powLoop m n (if e % 2 = 1 then acc * x % m else acc) (x * x % m) (e / 2)

/-- MODPOW's value for m ≥ 1: 0 for m = 1, else right-to-left binary exponentiation (R170, R171). -/
def modpowValue (a b m : Nat) : Nat := if m = 1 then 0 else powLoop m (Nat.log2 b + 1) 1 a b

/-- `Euclid(a, b)` (00_scope.md R17); the second operand falls at every turn, so `b` turns are enough. -/
def euclidLoop : Nat → Nat → Nat → Nat
  | 0, a, _ => a
  | n + 1, a, b => if b = 0 then a else euclidLoop n b (a % b)

/-- `Euclid(a, b)` (R17, R178). -/
def euclid (a b : Nat) : Nat := euclidLoop b a b

/-- The extended-Euclid recursion (00_scope.md R17), to a depth that the second operand bounds. -/
def egcdRec : Nat → Nat → Nat → Nat × Int × Int
  | 0, a, _ => (a, 1, 0)
  | n + 1, a, b =>
    if b = 0 then (a, 1, 0)
    else
      let r := egcdRec n b (a % b)
      (r.1, r.2.2, r.2.1 - (a / b : Nat) * r.2.2)

/-- `EGCD(a, b) = (g, x, y)` (R17, R180). -/
def egcd (a b : Nat) : Nat × Int × Int := egcdRec b a b

/-- MODPOW (R170). -/
def execModpow (d base exp m : Reg) (s : State) : Host.Outcome State Fault Refusal :=
  s.finish (stageIfNonzero (s.reg m) (.regs [(d, modpowValue (s.reg base) (s.reg exp) (s.reg m))]))

/-- MODMUL (R175): the full product, then its remainder; no capacity limit on the product. -/
def execModmul (d a b m : Reg) (s : State) : Host.Outcome State Fault Refusal :=
  s.finish (stageIfNonzero (s.reg m) (.regs [(d, s.reg a * s.reg b % s.reg m)]))

/-- GCD (R178). -/
def execGcd (d a b : Reg) (s : State) : Host.Outcome State Fault Refusal :=
  s.finish (.ok (.regs [(d, euclid (s.reg a) (s.reg b))]))

/-- What EGCD stages: g, |x|, |y| and the two signs (R180, R183). -/
def stageEgcd (g x y : Reg) (r : Nat × Int × Int) : Staged :=
  { writes := [(g, r.1), (x, r.2.1.natAbs), (y, r.2.2.natAbs)]
    cr := none
    signs := some (signBit r.2.1, signBit r.2.2) }

/-- EGCD (R180). -/
def execEgcd (g x y a b : Reg) (s : State) : Host.Outcome State Fault Refusal :=
  s.finish (stageIfDistinct (g != x && g != y && x != y) (.ok (stageEgcd g x y (egcd (s.reg a) (s.reg b)))))

/-- MODINV's result (R185): 0 when there is no inverse, else the residue of x in 0 .. m − 1. -/
def modinvResult (d : Reg) (a m : Nat) : Except CommandError Staged :=
  let r := egcd a m
  if r.1 ≠ 1 then .ok (.regs [(d, 0)])
  else stageIfNonzero m (.regs [(d, (r.2.1 % m).toNat)])

/-- MODINV (R185); XNEG and YNEG are not written. -/
def execModinv (d a m : Reg) (s : State) : Host.Outcome State Fault Refusal :=
  s.finish (modinvResult d (s.reg a) (s.reg m))

end Sys2Proof.Machine
end

