-- ==== Sys2Proof/Syntax.lean ====
section
/-! DEFINITION. The commands of EPC-1, one constructor per row of the opcode map (30_encoding.md R104). Operands are
named and ordered as the assembly syntax orders them (R121). -/

namespace Sys2Proof

/-- A command with its register operands. -/
inductive Instr where
  /-- NOP (R200). -/
  | nop
  /-- CMP vA, vB (R131). -/
  | cmp (a b : Reg)
  /-- ADD vD, vA, vB (R132). -/
  | add (d a b : Reg)
  /-- SUB vD, vA, vB (R133). -/
  | sub (d a b : Reg)
  /-- MULS vD, vA; the scalar is `SCALAR` (R134). -/
  | muls (d a : Reg)
  /-- MUL vD, vA, vB (R135). -/
  | mul (d a b : Reg)
  /-- DIV vQ, vR, vA, vB; Q is field D, R is field E (R136). -/
  | div (q r a b : Reg)
  /-- MOD vD, vA, vM (R137). -/
  | mod (d a m : Reg)
  /-- MODPOW vD, vBase, vExp, vM (R170). -/
  | modpow (d base exp m : Reg)
  /-- MODMUL vD, vA, vB, vM (R175). -/
  | modmul (d a b m : Reg)
  /-- GCD vD, vA, vB (R178). -/
  | gcd (d a b : Reg)
  /-- EGCD vG, vX, vY, vA, vB; G is field D, X is field E, Y is field M (R180). -/
  | egcd (g x y a b : Reg)
  /-- MODINV vD, vA, vM (R185). -/
  | modinv (d a m : Reg)
  /-- CLR vD (R201). -/
  | clr (d : Reg)
  /-- MOV vD, vA (R202). -/
  | mov (d a : Reg)
  /-- LDS vD (R203). -/
  | lds (d : Reg)
  deriving DecidableEq, Repr

/-- Pseudo-instruction SQR vD, vA (R122). -/
def Instr.sqr (d a : Reg) : Instr := .mul d a a

/-- Pseudo-instruction MODSQR vD, vA, vM (R122). -/
def Instr.modsqr (d a m : Reg) : Instr := .modmul d a a m

/-- Pseudo-instruction INV vD, vA, vM (R122). -/
def Instr.inv (d a m : Reg) : Instr := .modinv d a m

/-- The big registers a successful command writes (R105). -/
def Instr.dests : Instr → List Reg
  | .nop => []
  | .cmp _ _ => []
  | .add d _ _ => [d]
  | .sub d _ _ => [d]
  | .muls d _ => [d]
  | .mul d _ _ => [d]
  | .div q r _ _ => [q, r]
  | .mod d _ _ => [d]
  | .modpow d _ _ _ => [d]
  | .modmul d _ _ _ => [d]
  | .gcd d _ _ => [d]
  | .egcd g x y _ _ => [g, x, y]
  | .modinv d _ _ => [d]
  | .clr d => [d]
  | .mov d _ => [d]
  | .lds d => [d]

end Sys2Proof
end

