-- ==== Sys2Proof/Machine/Dispatch.lean ====
section
/-! DEFINITION. `Execute` and the completion of each command (30_encoding.md R106, 10_state.md R39): one arm per
constructor of Instr, one call of its meaning. -/

namespace Sys2Proof.Machine

def exec (i : Instr) (s : State) : Host.Outcome State Fault Refusal :=
  match i with
  | .nop => Sys2Proof.Machine.execNop s
  | .cmp a b => Sys2Proof.Machine.execCmp a b s
  | .add d a b => Sys2Proof.Machine.execAdd d a b s
  | .sub d a b => Sys2Proof.Machine.execSub d a b s
  | .muls d a => Sys2Proof.Machine.execMuls d a s
  | .mul d a b => Sys2Proof.Machine.execMul d a b s
  | .div q r a b => Sys2Proof.Machine.execDiv q r a b s
  | .mod d a m => Sys2Proof.Machine.execMod d a m s
  | .modpow d base exp m => Sys2Proof.Machine.execModpow d base exp m s
  | .modmul d a b m => Sys2Proof.Machine.execModmul d a b m s
  | .gcd d a b => Sys2Proof.Machine.execGcd d a b s
  | .egcd g x y a b => Sys2Proof.Machine.execEgcd g x y a b s
  | .modinv d a m => Sys2Proof.Machine.execModinv d a m s
  | .clr d => Sys2Proof.Machine.execClr d s
  | .mov d a => Sys2Proof.Machine.execMov d a s
  | .lds d => Sys2Proof.Machine.execLds d s

end Sys2Proof.Machine
end

