-- ==== Sys2Proof/WellFormed.lean ====
section
/-! DEFINITION. The one check a command's operands must pass: no register is named for two results
(30_encoding.md R109). Register numbers are in range by their type (R102). -/

namespace Sys2Proof

/-- DIV names two different destinations, EGCD three pairwise different ones (R109). -/
def Instr.wellFormed : Instr → Bool
  | .div q r _ _ => q != r
  | .egcd g x y _ _ => g != x && g != y && x != y
  | .nop => true
  | .cmp _ _ => true
  | .add _ _ _ => true
  | .sub _ _ _ => true
  | .muls _ _ => true
  | .mul _ _ _ => true
  | .mod _ _ _ => true
  | .modpow _ _ _ _ => true
  | .modmul _ _ _ _ => true
  | .gcd _ _ _ => true
  | .modinv _ _ _ => true
  | .clr _ => true
  | .mov _ _ => true
  | .lds _ => true

end Sys2Proof
end

