-- ==== Sys2Proof/Decode.lean ====
section
/-! DEFINITION. The decoder and the encoder of the command word (30_encoding.md R100 to R112). The decoder takes the
whole 64-bit `CMD` value, or any list of bytes of the bus word, and rejects by name. -/

namespace Sys2Proof

/-- `v[hi:lo]` of a natural number (00_scope.md R12). -/
def bits (v hi lo : Nat) : Nat := v / 2 ^ lo % 2 ^ (hi - lo + 1)

/-- Why a `CMD` value is no command; every reason completes with ILLEGAL_COMMAND (R106). The fourth reason of
R106, a destination conflict (R109), concerns a word that has a row of the opcode map: it decodes, and the command's
meaning turns it away (log 8). -/
inductive Reject where
  /-- The bytes are not one 64-bit bus word (20_memory.md R74). -/
  | notOneWord
  /-- Bits 63:32 are not zero (R100). -/
  | highBits
  /-- The opcode is not in the opcode map (R107). -/
  | reservedOpcode
  /-- A field that must be zero is not (R108). -/
  | sbzField
  deriving DecidableEq, Repr

/-- The rows of the opcode map (R104). -/
inductive Opcode where
  | nop | cmp | add | sub | muls | mul | div | mod
  | modpow | modmul | gcd | egcd | modinv
  | clr | mov | lds
  deriving DecidableEq, Repr

/-- The OPC value of a row (R104). -/
def Opcode.code : Opcode → Nat
  | .nop => 0x00
  | .cmp => 0x01
  | .add => 0x02
  | .sub => 0x03
  | .muls => 0x04
  | .mul => 0x05
  | .div => 0x06
  | .mod => 0x07
  | .modpow => 0x10
  | .modmul => 0x11
  | .gcd => 0x12
  | .egcd => 0x13
  | .modinv => 0x14
  | .clr => 0x20
  | .mov => 0x21
  | .lds => 0x22

/-- All rows, in the order of R104. -/
def Opcode.all : List Opcode :=
  [.nop, .cmp, .add, .sub, .muls, .mul, .div, .mod,
   .modpow, .modmul, .gcd, .egcd, .modinv, .clr, .mov, .lds]

/-- The row of an OPC value, if it has one (R104, R107). -/
def opcodeOf (n : Nat) : Option Opcode := Opcode.all.find? fun op => op.code == n

/-- Which of the fields D, E, A, B, M a row uses; the others are SBZ (R104). -/
structure FieldUse where
  d : Bool
  e : Bool
  a : Bool
  b : Bool
  m : Bool
  deriving DecidableEq, Repr

/-- The columns of the opcode map (R104). -/
def Opcode.uses : Opcode → FieldUse
  | .nop    => ⟨false, false, false, false, false⟩
  | .cmp    => ⟨false, false, true,  true,  false⟩
  | .add    => ⟨true,  false, true,  true,  false⟩
  | .sub    => ⟨true,  false, true,  true,  false⟩
  | .muls   => ⟨true,  false, true,  false, false⟩
  | .mul    => ⟨true,  false, true,  true,  false⟩
  | .div    => ⟨true,  true,  true,  true,  false⟩
  | .mod    => ⟨true,  false, true,  false, true⟩
  | .modpow => ⟨true,  false, true,  true,  true⟩
  | .modmul => ⟨true,  false, true,  true,  true⟩
  | .gcd    => ⟨true,  false, true,  true,  false⟩
  | .egcd   => ⟨true,  true,  true,  true,  true⟩
  | .modinv => ⟨true,  false, true,  false, true⟩
  | .clr    => ⟨true,  false, false, false, false⟩
  | .mov    => ⟨true,  false, true,  false, false⟩
  | .lds    => ⟨true,  false, false, false, false⟩

/-- The `match` column of R112: OPC · 2^24. -/
def Opcode.matchWord (op : Opcode) : Nat := op.code * 2 ^ 24

/-- The `mask` column of R112: the OPC and Z bits and the bits of every SBZ field. -/
def Opcode.mask (op : Opcode) : Nat :=
  0xFF00000F + (if op.uses.d then 0 else 0x00F00000) + (if op.uses.e then 0 else 0x000F0000)
    + (if op.uses.a then 0 else 0x0000F000) + (if op.uses.b then 0 else 0x00000F00)
    + (if op.uses.m then 0 else 0x000000F0)

/-- The 4-bit fields of the command word (R101). -/
structure Fields where
  d : Reg
  e : Reg
  a : Reg
  b : Reg
  m : Reg
  z : Fin 16
  deriving DecidableEq, Repr

/-- The 4-bit field whose lowest bit is `lo`, zero-extended to a register number (R102). -/
def regField (v lo : Nat) : Reg := Fin.ofNat 16 (bits v (lo + 3) lo)

/-- The fields at the bit positions of R101. -/
def fieldsOf (v : Nat) : Fields :=
  { d := regField v 20, e := regField v 16, a := regField v 12,
    b := regField v 8, m := regField v 4, z := regField v 0 }

/-- Every SBZ field of the row, Z included, is zero (R108). -/
def Opcode.sbzClear (op : Opcode) (f : Fields) : Bool :=
  (op.uses.d || f.d == 0) && (op.uses.e || f.e == 0) && (op.uses.a || f.a == 0)
    && (op.uses.b || f.b == 0) && (op.uses.m || f.m == 0) && f.z == 0

/-- The command of a row with its operands taken from the fields R104 and R121 name. -/
def Opcode.instr : Opcode → Fields → Instr
  | .nop, _ => .nop
  | .cmp, f => .cmp f.a f.b
  | .add, f => .add f.d f.a f.b
  | .sub, f => .sub f.d f.a f.b
  | .muls, f => .muls f.d f.a
  | .mul, f => .mul f.d f.a f.b
  | .div, f => .div f.d f.e f.a f.b
  | .mod, f => .mod f.d f.a f.m
  | .modpow, f => .modpow f.d f.a f.b f.m
  | .modmul, f => .modmul f.d f.a f.b f.m
  | .gcd, f => .gcd f.d f.a f.b
  | .egcd, f => .egcd f.d f.e f.m f.a f.b
  | .modinv, f => .modinv f.d f.a f.m
  | .clr, f => .clr f.d
  | .mov, f => .mov f.d f.a
  | .lds, f => .lds f.d

/-- `Execute`'s decoding of a 64-bit `CMD` value, its checks in R106's order. -/
def decode (w : Word) : Except Reject Instr :=
  if bits w.toNat 63 32 ≠ 0 then .error .highBits
  else
    match opcodeOf (bits w.toNat 31 24) with
    | none => .error .reservedOpcode
    | some op =>
      if op.sbzClear (fieldsOf w.toNat) then .ok (op.instr (fieldsOf w.toNat)) else .error .sbzField

/-- The bus word whose byte at bus address `BASE + off + k` is `bs[k]`: little-endian (20_memory.md R75). -/
def wordOfBytes (bs : List Byte) : Word :=
  BitVec.ofNat 64 (bs.foldr (fun b acc => b.toNat + 256 * acc) 0)

/-- Byte `k` of the bus word is its bits 8k+7 : 8k (20_memory.md R75). -/
def busByte (w : Word) (k : Nat) : Byte := w.extractLsb' (8 * k) 8

/-- The eight bytes of a bus word, lowest bus address first (20_memory.md R75). -/
def bytesOfWord (w : Word) : List Byte := (List.range 8).map (busByte w)

/-- The decoder on bytes as they stand on the bus: total, one 64-bit word or rejected (R74, R77). -/
def decodeBytes (bs : List Byte) : Except Reject Instr :=
  if bs.length = 8 then decode (wordOfBytes bs) else .error .notOneWord

/-- The row a command belongs to. -/
def Instr.opcode : Instr → Opcode
  | .nop => .nop
  | .cmp _ _ => .cmp
  | .add _ _ _ => .add
  | .sub _ _ _ => .sub
  | .muls _ _ => .muls
  | .mul _ _ _ => .mul
  | .div _ _ _ _ => .div
  | .mod _ _ _ => .mod
  | .modpow _ _ _ _ => .modpow
  | .modmul _ _ _ _ => .modmul
  | .gcd _ _ _ => .gcd
  | .egcd _ _ _ _ _ => .egcd
  | .modinv _ _ _ => .modinv
  | .clr _ => .clr
  | .mov _ _ => .mov
  | .lds _ => .lds

/-- The fields a command fills (R104, R121); an unused field is zero (R108). -/
def Instr.fields : Instr → Fields
  | .nop => ⟨0, 0, 0, 0, 0, 0⟩
  | .cmp a b => ⟨0, 0, a, b, 0, 0⟩
  | .add d a b => ⟨d, 0, a, b, 0, 0⟩
  | .sub d a b => ⟨d, 0, a, b, 0, 0⟩
  | .muls d a => ⟨d, 0, a, 0, 0, 0⟩
  | .mul d a b => ⟨d, 0, a, b, 0, 0⟩
  | .div q r a b => ⟨q, r, a, b, 0, 0⟩
  | .mod d a m => ⟨d, 0, a, 0, m, 0⟩
  | .modpow d base exp m => ⟨d, 0, base, exp, m, 0⟩
  | .modmul d a b m => ⟨d, 0, a, b, m, 0⟩
  | .gcd d a b => ⟨d, 0, a, b, 0, 0⟩
  | .egcd g x y a b => ⟨g, x, a, b, y, 0⟩
  | .modinv d a m => ⟨d, 0, a, 0, m, 0⟩
  | .clr d => ⟨d, 0, 0, 0, 0, 0⟩
  | .mov d a => ⟨d, 0, a, 0, 0, 0⟩
  | .lds d => ⟨d, 0, 0, 0, 0, 0⟩

/-- The word of R101: OPC·2^24 + D·2^20 + E·2^16 + A·2^12 + B·2^8 + M·2^4. -/
def packWord (op : Opcode) (f : Fields) : Nat :=
  op.code * 2 ^ 24 + f.d.val * 2 ^ 20 + f.e.val * 2 ^ 16 + f.a.val * 2 ^ 12 + f.b.val * 2 ^ 8 + f.m.val * 2 ^ 4

/-- The 32-bit command word of a command (R101). -/
def encode (i : Instr) : BitVec 32 := BitVec.ofNat 32 (packWord i.opcode i.fields)

/-- The 64-bit `CMD` write that carries a command: its word zero-extended (R100, R123). -/
def commandValue (i : Instr) : Word := (encode i).setWidth 64

/-- The command the decoder reads from the table's word `w` of `nbits` bits, laid out as eight bus bytes. -/
def decodeTableWord (nbits w : Nat) : Option Instr :=
  match decodeBytes (bytesOfWord (BitVec.ofNat 64 (w % 2 ^ nbits))) with
  | .ok i => some i
  | .error _ => none

end Sys2Proof
end

