-- ==== Sys2Proof/Machine/Fetch.lean ====
section
/-! DEFINITION. The CORE fetches no instructions (10_state.md R31): the command it runs next is the value latched in
INFLIGHT at accept (20_memory.md R77, R89). -/

namespace Sys2Proof.Machine

/-- The command in flight, decoded from the bytes of the `CMD` write that carried it; none when idle (R37, R77). -/
def State.fetch (s : State) : Option (Except Reject Instr) :=
  s.inflight.map fun w => decodeBytes (bytesOfWord w)

/-- A value that is no command completes with ILLEGAL_COMMAND, whatever the reason (30_encoding.md R106). -/
def rejectCommand (_reason : Reject) (s : State) : Host.Outcome State Fault Refusal :=
  .next (s.completeError .illegalCommand)

end Sys2Proof.Machine
end

