-- ==== Sys2Proof/Machine/HostAccess.lean ====
section
/-! DEFINITION. Host accesses to the register window (20_memory.md): the address map (R72, R73), reads (R78, R81, R83),
writes (R79, R80, R82), and the bus error of an access that is not 64 bits wide and aligned (R74; 60_exceptions.md
R244). -/

namespace Sys2Proof.Machine

/-- What stands at an aligned offset of the window (R72). -/
inductive Target where
  | id
  | param
  | ctrl
  | status
  | cmd
  | scalar
  | len (r : Reg)
  | limb (r : Reg) (i : Nat)
  | reserved
  deriving DecidableEq, Repr

/-- The address map (R72) with the register and limb numbers of R73. -/
def targetOf (off : Nat) : Target :=
  if off = 0x0000 then .id
  else if off = 0x0008 then .param
  else if off = 0x0010 then .ctrl
  else if off = 0x0018 then .status
  else if off = 0x0020 then .cmd
  else if off = 0x0028 then .scalar
  else if 0x100 ≤ off ∧ off < 0x180 then .len (Fin.ofNat 16 ((off - 0x100) / 8))
  else if 0x1000 ≤ off ∧ off < 0x11000 then
    .limb (Fin.ofNat 16 ((off - 0x1000) / 0x1000)) ((off - 0x1000) % 0x1000 / 8)
  else .reserved

/-- A read of `LEN` or of a limb below MAXLIMBS while busy returns a free value (R83). -/
def State.readIsDraw (s : State) : Target → Bool
  | .len _ => s.busy
  | .limb _ i => s.busy && decide (i < s.cfg.maxLimbs)
  | .id | .param | .ctrl | .status | .cmd | .scalar | .reserved => false

/-- The value a read returns when it is no draw (R78, R81). -/
def State.registerValue (s : State) : Target → Word
  | .id => Config.idValue
  | .param => s.cfg.paramValue
  | .ctrl => s.ctrl.word
  | .status => s.status.word s.busy
  | .cmd => 0
  | .scalar => s.scalar
  | .len r => BitVec.ofNat 64 (nlimbs (s.reg r))
  | .limb r i => if i < s.cfg.maxLimbs then BitVec.ofNat 64 (limb (s.reg r) i) else 0
  | .reserved => 0

/-- The value `HostRead` returns (R78, R83). -/
def State.readValue (s : State) (off : Nat) : Word :=
  if s.readIsDraw (targetOf off) then Config.freeWord s.draws else s.registerValue (targetOf off)

/-- `HostRead(off)`: the value goes to the host; no architectural state changes (R78, R85). -/
def State.hostRead (s : State) (off : Nat) : State :=
  { s with
    replies := { off := off, data := s.readValue off } :: s.replies
    draws := if s.readIsDraw (targetOf off) then s.draws + 1 else s.draws }

/-- `HostWrite(off, x)` (R79). -/
def State.hostWrite (s : State) (off : Nat) (x : Word) : State :=
  match targetOf off with
  | .id => s
  | .param => s
  | .ctrl => s.writeCtrl x
  | .status => s.acknowledge x
  | .cmd => s.accept x
  | .scalar => s.writeScalar x
  | .len _ => s
  | .limb r i => if i < s.cfg.maxLimbs then s.writeLimb r i x else s
  | .reserved => s

/-- The bus error of a bad access: recorded, no other state changes (R74; 60_exceptions.md R244, log 5). -/
def State.busError (s : State) (off width : Nat) : State :=
  { s with busErrors := { off := off, width := width } :: s.busErrors }

/-- The bus address lies in the window (R70). -/
def inWindow (c : Config) (addr : Nat) : Bool :=
  decide (c.base ≤ addr) && decide (addr < c.base + Config.windowBytes)

/-- The access is 64 bits wide and 8-byte aligned (R74). -/
def Access.admitted (a : Access) (c : Config) : Bool :=
  a.width == 64 && (a.addr - c.base) % 8 == 0

/-- One host access: outside the window it is none of the CORE's (log 7); a bad one gets a bus error; else it is
performed (R70, R74, R84). -/
def performAccess (a : Access) (s : State) : Host.Outcome State Fault Refusal :=
  if inWindow s.cfg a.addr then
    if a.admitted s.cfg then
      match a.kind with
      | .read => .next (s.hostRead (a.addr - s.cfg.base))
      | .write x => .next (s.hostWrite (a.addr - s.cfg.base) x)
    else .next (s.busError (a.addr - s.cfg.base) a.width)
  else .fault (.outsideWindow a.addr)

end Sys2Proof.Machine
end

