-- ==== Sys2Proof/Machine/Step.lean ====
section
/-! DEFINITION. One step of the machine: a turn of the CORE (10_state.md R39), a host access (20_memory.md R86), or a
hard reset (70_reset_and_hazards.md R260), as the agenda says (log 2). -/

namespace Sys2Proof.Machine

/-- A turn of the CORE: the completion step if a command is in flight, else nothing (R39, R261, log 3). -/
def coreTurn (s : State) : Host.Outcome State Fault Refusal :=
  match s.fetch with
  | none => .next s
  | some (.error e) => rejectCommand e s
  | some (.ok i) => exec i s

/-- What an event of the agenda does. -/
def perform (e : Event) (s : State) : Host.Outcome State Fault Refusal :=
  match e with
  | .access a => performAccess a s
  | .coreTurn => coreTurn s
  | .hardReset => .next s.hardReset

/-- The next event of the agenda happens; with an empty agenda the CORE moves, so that a command that stays in flight is
completed (R86, R275). -/
def step (s : State) : Host.Outcome State Fault Refusal :=
  match s.agenda with
  | [] => coreTurn s
  | e :: rest => perform e { s with agenda := rest }

/-- `s` with the command value `w` (its bits above `nbits` zero) in INFLIGHT and the CORE to move next, so that `step`
completes exactly that command (log 14). -/
def State.withFetchWord (s : State) (nbits w : Nat) : State :=
  { s with
    inflight := some (BitVec.ofNat 64 (w % 2 ^ nbits))
    agenda := match s.agenda with
      | [] => []
      | e :: rest => .coreTurn :: e :: rest }

end Sys2Proof.Machine
end

