-- ==== Sys2Proof/Machine/Datapath.lean ====
section
/-! DEFINITION. The reference datapaths the spec gives beside the exact results: ripple-carry adder, borrow subtractor,
schoolbook multiplier, long division (41_arithmetic_kernel.md R140 to R143), and the iterative extended-GCD loop
(42_number_theory.md R181). They are internal structures (00_scope.md R7): no meaning calls them, and statements say
that each gives the exact result (log 15). -/

namespace Sys2Proof.Machine

/-- The digits of limbs 0 .. n − 1 of the sum, as one number, and the carry out (R140). -/
def rippleLoop (a b : Nat) : Nat → Nat × Nat
  | 0 => (0, 0)
  | i + 1 =>
    let p := rippleLoop a b i
    let t := limb a i + limb b i + p.2
    (p.1 + t % 2 ^ 64 * 2 ^ (64 * i), t / 2 ^ 64)

/-- The ripple-carry adder: a final limb if a carry remains (R140). -/
def rippleAdd (a b : Nat) : Nat :=
  let n := max (nlimbs a) (nlimbs b)
  let p := rippleLoop a b n
  if p.2 = 1 then p.1 + 2 ^ (64 * n) else p.1

/-- The digits of limbs 0 .. n − 1 of the difference, as one number, and the borrow out (R141). -/
def borrowLoop (a b : Nat) : Nat → Nat × Nat
  | 0 => (0, 0)
  | i + 1 =>
    let p := borrowLoop a b i
    let t : Int := (limb a i : Int) - limb b i - p.2
    (p.1 + (t % 2 ^ 64).toNat * 2 ^ (64 * i), if t < 0 then 1 else 0)

/-- The borrow-propagating subtractor (R141). -/
def borrowSub (a b : Nat) : Nat := (borrowLoop a b (nlimbs a)).1

/-- The limbs of the accumulator array and the carry after `j` turns of R142's inner loop for limb `i` of `a`. -/
def mulInner (a b i : Nat) (r : List Nat) : Nat → List Nat × Nat
  | 0 => (r, 0)
  | j + 1 =>
    let p := mulInner a b i r j
    let t := p.1.getD (i + j) 0 + limb a i * limb b j + p.2
    (p.1.set (i + j) (t % 2 ^ 64), t / 2 ^ 64)

/-- The accumulator array after `i` turns of R142's outer loop. -/
def mulOuter (a b : Nat) : Nat → List Nat
  | 0 => List.replicate (nlimbs a + nlimbs b) 0
  | i + 1 =>
    let p := mulInner a b i (mulOuter a b i) (nlimbs b)
    p.1.set (i + nlimbs b) p.2

/-- The value `t` the 128-bit accumulator holds in turn `j` of the inner loop of turn `i` (R142). -/
def mulAccumulator (a b i j : Nat) : Nat :=
  let p := mulInner a b i (mulOuter a b i) j
  p.1.getD (i + j) 0 + limb a i * limb b j + p.2

/-- The number whose 64-bit digits, least significant first, are `ds` (R142). -/
def limbsValue : List Nat → Nat
  | [] => 0
  | d :: ds => d + 2 ^ 64 * limbsValue ds

/-- The schoolbook multiplier (R142). -/
def schoolbookMul (a b : Nat) : Nat := limbsValue (mulOuter a b (nlimbs a))

/-- The largest d' ≥ d below d + 2^k with d'·b ≤ r, found bit by bit; one of the searches R143 allows (log 15). -/
def digitSearch (b r : Nat) : Nat → Nat → Nat
  | 0, d => d
  | k + 1, d => digitSearch b r k (if (d + 2 ^ k) * b ≤ r then d + 2 ^ k else d)

/-- The quotient digit of R143: the largest d in 0 .. 2^64 − 1 with d·b ≤ r. -/
def quotientDigit (b r : Nat) : Nat := digitSearch b r 64 0

/-- The loop of R143 over limbs i − 1 down to 0 from quotient `q` and remainder `r`. -/
def longDivLoop (a b : Nat) : Nat → Nat → Nat → Nat × Nat
  | 0, q, r => (q, r)
  | i + 1, q, r =>
    let t := r * 2 ^ 64 + limb a i
    longDivLoop a b i (q + quotientDigit b t * 2 ^ (64 * i)) (t - quotientDigit b t * b)

/-- Digit-by-digit long division (R143). -/
def longDiv (a b : Nat) : Nat × Nat := longDivLoop a b (nlimbs a) 0 0

/-- The loop of R181 on (r0, r1), (s0, s1), (t0, t1); `r1` falls at every turn and bounds their number. -/
def egcdLoop : Nat → Nat → Nat → Int → Int → Int → Int → Nat × Int × Int
  | 0, r0, _, s0, _, t0, _ => (r0, s0, t0)
  | n + 1, r0, r1, s0, s1, t0, t1 =>
    if r1 = 0 then (r0, s0, t0)
    else
      egcdLoop n r1 (r0 - r0 / r1 * r1) s1 (s0 - (r0 / r1 : Nat) * s1) t1 (t0 - (r0 / r1 : Nat) * t1)

/-- The iterative extended-GCD datapath (R181). -/
def egcdIterative (a b : Nat) : Nat × Int × Int := egcdLoop b a b 1 0 0 1

end Sys2Proof.Machine
end

