-- ==== Sys2Proof/Machine/HostNotation.lean ====
section
/-! DEFINITION. The spec's notations: the assembly syntax of commands (30_encoding.md R121, R122) and the host-program
notation (R123). They are notations for command words and for host accesses, not part of the machine (00_scope.md
R8). -/

namespace Sys2Proof.Machine

/-- `WR off, x` (R123). -/
def wr (c : Config) (off : Nat) (x : Word) : List Event :=
  [.access { addr := c.base + off, width := 64, kind := .write x }]

/-- `RD off` (R123). -/
def rd (c : Config) (off : Nat) : List Event :=
  [.access { addr := c.base + off, width := 64, kind := .read }]

/-- `ISSUE cmd` (R123). -/
def issue (c : Config) (i : Instr) : List Event := wr c 0x0020 (commandValue i)

/-- `WAIT` (R123): the completion falls in it, and its last read of STATUS sees BUSY = 0 (95_test_vectors.md section 3,
log 16). -/
def waitIdle (c : Config) : List Event := .coreTurn :: rd c 0x0018

/-- `EXEC cmd` (R123). -/
def execAndWait (c : Config) (i : Instr) : List Event := issue c i ++ waitIdle c

/-- `LOAD vR, u` (R123). -/
def loadRegister (c : Config) (r : Reg) (u : Nat) : List Event :=
  execAndWait c (.clr r) ++
    (List.range (nlimbs u)).flatMap fun i =>
      wr c (0x1000 + 0x1000 * r.val + 8 * i) (BitVec.ofNat 64 (limb u i))

/-- `STORE vR` (R123), where `n` is what its read of `LEN[R]` returns. -/
def storeRegister (c : Config) (r : Reg) (n : Nat) : List Event :=
  rd c (0x0100 + 8 * r.val) ++
    (List.range n).flatMap fun i => rd c (0x1000 + 0x1000 * r.val + 8 * i)

/-- `SETS x` (R123). -/
def setScalar (c : Config) (x : Word) : List Event := wr c 0x0028 x

/-- The mnemonic of a row (R104, R121). -/
def mnemonicOf : Opcode → String
  | .nop => "NOP"
  | .cmp => "CMP"
  | .add => "ADD"
  | .sub => "SUB"
  | .muls => "MULS"
  | .mul => "MUL"
  | .div => "DIV"
  | .mod => "MOD"
  | .modpow => "MODPOW"
  | .modmul => "MODMUL"
  | .gcd => "GCD"
  | .egcd => "EGCD"
  | .modinv => "MODINV"
  | .clr => "CLR"
  | .mov => "MOV"
  | .lds => "LDS"

/-- The command of a row with its operands in the order of the syntax table (R121). -/
def commandOf : Opcode → List Reg → Option Instr
  | .nop, [] => some .nop
  | .cmp, [a, b] => some (.cmp a b)
  | .add, [d, a, b] => some (.add d a b)
  | .sub, [d, a, b] => some (.sub d a b)
  | .muls, [d, a] => some (.muls d a)
  | .mul, [d, a, b] => some (.mul d a b)
  | .div, [q, r, a, b] => some (.div q r a b)
  | .mod, [d, a, m] => some (.mod d a m)
  | .modpow, [d, base, exp, m] => some (.modpow d base exp m)
  | .modmul, [d, a, b, m] => some (.modmul d a b m)
  | .gcd, [d, a, b] => some (.gcd d a b)
  | .egcd, [g, x, y, a, b] => some (.egcd g x y a b)
  | .modinv, [d, a, m] => some (.modinv d a m)
  | .clr, [d] => some (.clr d)
  | .mov, [d, a] => some (.mov d a)
  | .lds, [d] => some (.lds d)
  | _, _ => none

/-- A pseudo-instruction by name (R122). -/
def pseudoOf (name : List Char) (ops : List Reg) : Option Instr :=
  if name = "SQR".toList then
    match ops with
    | [d, a] => some (.sqr d a)
    | _ => none
  else if name = "MODSQR".toList then
    match ops with
    | [d, a, m] => some (.modsqr d a m)
    | _ => none
  else if name = "INV".toList then
    match ops with
    | [d, a, m] => some (.inv d a m)
    | _ => none
  else none

/-- The name `v0` .. `v15` of a register (R121). -/
def registerName (r : Reg) : List Char :=
  if r.val < 10 then ['v', Char.ofNat (48 + r.val)] else ['v', '1', Char.ofNat (38 + r.val)]

/-- The register a name stands for. -/
def parseRegister (cs : List Char) : Option Reg := (List.finRange 16).find? fun r => registerName r == cs

/-- Blanks, which may stand around a mnemonic and an operand (log 17). -/
def isBlank (c : Char) : Bool := c == ' ' || c == '\t'

/-- Blanks dropped at both ends. -/
def trimBlanks (cs : List Char) : List Char :=
  ((cs.dropWhile isBlank).reverse.dropWhile isBlank).reverse

/-- The pieces between commas. -/
def splitCommas : List Char → List (List Char)
  | [] => [[]]
  | c :: cs =>
    if c = ',' then [] :: splitCommas cs
    else
      match splitCommas cs with
      | [] => [[c]]
      | p :: ps => (c :: p) :: ps

/-- Every piece a register name. -/
def parseRegisters : List (List Char) → Option (List Reg)
  | [] => some []
  | p :: ps =>
    match parseRegister (trimBlanks p), parseRegisters ps with
    | some r, some rs => some (r :: rs)
    | _, _ => none

/-- One line of assembly: mnemonic in any case, operands between commas, `;` starts a comment (R121). A line without a
command gives none. -/
def assembleLine (line : List Char) : Option Instr :=
  let body := trimBlanks (line.takeWhile (· != ';'))
  let name := (body.takeWhile (fun c => !isBlank c)).map Char.toUpper
  let rest := trimBlanks (body.dropWhile (fun c => !isBlank c))
  match parseRegisters (if rest = [] then [] else splitCommas rest) with
  | none => none
  | some ops =>
    match Opcode.all.find? fun op => (mnemonicOf op).toList == name with
    | some op => commandOf op ops
    | none => pseudoOf name ops

end Sys2Proof.Machine
end

