-- ==== Sys2Proof/Safety.lean ====
section
/-! DEFINITION. The terms in which claims about the machine are stated: the state at the end of a command, the invariant
of every run, the events that can end a command without completing it, and the printed tables of the spec that claims
compare the decoder with. -/

namespace Sys2Proof.Machine

/-- What completion without error does beside the command's own writes (10_state.md R39). -/
def State.finished (s : State) : State :=
  { s with
    status := { s.status with done := true, err := false, errcode := none }
    inflight := none }

/-- What completion with error `e` does: BUSY, DONE, ERR, ERRCODE and INFLIGHT change and nothing else
(10_state.md R39, 60_exceptions.md R227). -/
def State.failed (s : State) (e : CommandError) : State :=
  { s with
    status := { s.status with done := true, err := true, errcode := some e }
    inflight := none }

/-- CR set, nothing else (41_arithmetic_kernel.md R131). -/
def State.withCr (s : State) (c : CompareResult) : State := { s with status := { s.status with cr := c } }

/-- XNEG and YNEG set, nothing else (42_number_theory.md R180). -/
def State.withSigns (s : State) (x y : Bool) : State :=
  { s with status := { s.status with xneg := x, yneg := y } }

/-- The machine's invariant, which every step keeps. -/
structure State.Inv (s : State) : Prop where
  /-- The configuration is in the ranges of 00_scope.md R9. -/
  config : s.cfg.wf = true
  /-- Every big register holds at most MAXLIMBS limbs (10_state.md R32). -/
  registersFit : ∀ r, nlimbs (s.reg r) ≤ s.cfg.maxLimbs
  /-- EXPWIN is one of its legal values 1 .. 6 (10_state.md R46). -/
  expwinLegal : 1 ≤ s.ctrl.expwin.toNat ∧ s.ctrl.expwin.toNat ≤ 6
  /-- ERR = 0 implies ERRCODE = 0 (10_state.md R47). -/
  errcodeOfErr : s.status.err = false → s.status.errcode = none
  /-- While a command is in flight no result of an earlier one is reported (10_state.md R38, R42). -/
  busyNotDone : s.busy = true → s.status.done = false ∧ s.status.err = false

/-- The sign of a Bezout coefficient from its STATUS bit (42_number_theory.md R183). -/
def signOf (neg : Bool) : Int := if neg then -1 else 1

/-- A write that is a soft reset (70_reset_and_hazards.md R262). -/
def Access.softResets (a : Access) (c : Config) : Bool :=
  match a.kind with
  | .read => false
  | .write x => a.admitted c && targetOf (a.addr - c.base) == .ctrl && x.getLsbD 6

/-- Events that can keep a command in flight from completing: a reset, hard or soft (70_reset_and_hazards.md R275), and
an access outside the window, which stops the model (log 7). -/
def Event.interrupts (c : Config) : Event → Bool
  | .hardReset => true
  | .coreTurn => false
  | .access a => !inWindow c a.addr || a.softResets c

/-- The table of 30_encoding.md R112 as printed: row, match, mask. -/
def printedMasks : List (Opcode × Nat × Nat) :=
  [(.nop, 0x00000000, 0xFFFFFFFF), (.cmp, 0x01000000, 0xFFFF00FF), (.add, 0x02000000, 0xFF0F00FF),
   (.sub, 0x03000000, 0xFF0F00FF), (.muls, 0x04000000, 0xFF0F0FFF), (.mul, 0x05000000, 0xFF0F00FF),
   (.div, 0x06000000, 0xFF0000FF), (.mod, 0x07000000, 0xFF0F0F0F), (.modpow, 0x10000000, 0xFF0F000F),
   (.modmul, 0x11000000, 0xFF0F000F), (.gcd, 0x12000000, 0xFF0F00FF), (.egcd, 0x13000000, 0xFF00000F),
   (.modinv, 0x14000000, 0xFF0F0F0F), (.clr, 0x20000000, 0xFF0FFFFF), (.mov, 0x21000000, 0xFF0F0FFF),
   (.lds, 0x22000000, 0xFF0FFFFF)]

/-- A destination conflict in a command word (30_encoding.md R109): DIV with D = E, EGCD with two of D, E, M equal. -/
def destinationConflict (w : Nat) : Prop :=
  (bits w 31 24 = 0x06 ∧ bits w 23 20 = bits w 19 16) ∨
  (bits w 31 24 = 0x13 ∧
    (bits w 23 20 = bits w 19 16 ∨ bits w 23 20 = bits w 7 4 ∨ bits w 19 16 = bits w 7 4))

/-- A 64-bit `CMD` value that is ILLEGAL_COMMAND by 30_encoding.md R112: non-zero bits 63:32, no matching row, or a
destination conflict. -/
def illegalValue (w : Word) : Prop :=
  bits w.toNat 63 32 ≠ 0 ∨
  (∀ row ∈ printedMasks, w.toNat &&& row.2.2 ≠ row.2.1) ∨
  destinationConflict w.toNat

end Sys2Proof.Machine
end

