-- ==== Sys2Proof/Certificates/Slice0/Obligations.lean ====
section
/-! DEFINITION. The statements about the machine, one definition each. -/

open Sys2Proof Sys2Proof.Machine

/-! ### Reset -/

/-- R52: every piece of state after a hard reset, a soft reset, and in `State.reset`. -/
def Obligations.ResetGivesEveryRegisterItsValue : Prop :=
  ∀ s t : State,
    (t = s.hardReset ∨ (∃ x : Word, x.getLsbD 6 = true ∧ t = s.hostWrite 0x0010 x) ∨ t = State.reset) →
    (∀ r, t.reg r = 0 ∧ nlimbs (t.reg r) = 1) ∧ t.scalar = 0 ∧
    t.ctrl.ie = false ∧ t.ctrl.expwin = 1 ∧ t.ctrl.redhint = 0 ∧
    t.busy = false ∧ t.status.done = false ∧ t.status.err = false ∧
    t.status.xneg = false ∧ t.status.yneg = false ∧ t.status.ovr = false ∧
    t.status.errcode = none ∧ t.status.cr = .none ∧ t.inflight = none ∧ t.irq = false

/-- R262: a CTRL write with bit 6 set is a hard reset, at any time and whatever its other bits are. -/
def Obligations.SoftResetIsHardReset : Prop :=
  ∀ (s : State) (x : Word) (rest : List Event),
    x.getLsbD 6 = true →
    s.agenda = .access { addr := s.cfg.base + 0x0010, width := 64, kind := .write x } :: rest →
    step s = .next { s with agenda := rest }.hardReset

/-! ### Host accesses -/

/-- R44, R45: the two read-only constants, and that writes to them are ignored. -/
def Obligations.IdAndParamReadTheirConstants : Prop :=
  ∀ (s : State) (x : Word), s.cfg.wf = true →
    (s.readValue 0x0000).toNat = 0x45504331 + 0x0007 * 2 ^ 32 + 0x0001 * 2 ^ 48 ∧
    (s.readValue 0x0008).toNat = s.cfg.maxLimbs + 16 * 2 ^ 16 + 64 * 2 ^ 24 ∧
    s.hostWrite 0x0000 x = s ∧ s.hostWrite 0x0008 x = s

/-- R47: the fields of STATUS at their bit positions in the value a read returns. -/
def Obligations.StatusReadHasItsLayout : Prop :=
  ∀ s : State,
    (s.readValue 0x0018).toNat =
      s.busy.toNat + 2 * s.status.done.toNat + 4 * s.status.err.toNat
        + 8 * (match s.status.errcode with
            | none => 0
            | some .divisionByZero => 1
            | some .underflow => 2
            | some .capacity => 3
            | some .illegalCommand => 4)
        + 128 * (match s.status.cr with
            | .equal => 0
            | .less => 1
            | .greater => 2
            | .none => 3)
        + 512 * s.status.xneg.toNat + 1024 * s.status.yneg.toNat + 2048 * s.status.ovr.toNat

/-- R79 (STATUS arm), R230: only the three W1C bits act, busy or not, and nothing else changes. -/
def Obligations.StatusWriteClearsOnlyWrittenOnes : Prop :=
  ∀ (s : State) (x : Word),
    s.hostWrite 0x0018 x =
      { s with
        status :=
          { done := if x.getLsbD 1 then false else s.status.done
            err := if x.getLsbD 2 then false else s.status.err
            errcode := if x.getLsbD 2 then none else s.status.errcode
            cr := s.status.cr
            xneg := s.status.xneg
            yneg := s.status.yneg
            ovr := if x.getLsbD 11 then false else s.status.ovr } }

/-- R46: a CTRL write without the soft-reset bit, and what CTRL then reads. -/
def Obligations.CtrlWriteStoresLegalFields : Prop :=
  ∀ (s : State) (x : Word), x.getLsbD 6 = false →
    ∃ c : Ctrl, s.hostWrite 0x0010 x = { s with ctrl := c } ∧
      c.ie.toNat = bits x.toNat 0 0 ∧ c.redhint.toNat = bits x.toNat 5 4 ∧
      c.expwin.toNat =
        (if 1 ≤ bits x.toNat 3 1 ∧ bits x.toNat 3 1 ≤ 6 then bits x.toNat 3 1 else 1) ∧
      ((s.hostWrite 0x0010 x).readValue 0x0010).toNat =
        c.ie.toNat + 2 * c.expwin.toNat + 16 * c.redhint.toNat

/-- R73: where every register stands in the window. -/
def Obligations.AddressMapLocatesEveryRegister : Prop :=
  (∀ off, 0x1000 ≤ off → off < 0x11000 →
    ∃ r : Reg, r.val = (off - 0x1000) / 0x1000 ∧
      targetOf off = .limb r ((off - 0x1000) % 0x1000 / 8)) ∧
  (∀ (r : Reg) (i : Nat), i < 512 → targetOf (0x1000 + 0x1000 * r.val + 8 * i) = .limb r i) ∧
  (∀ off, 0x100 ≤ off → off < 0x180 →
    ∃ r : Reg, r.val = (off - 0x100) / 8 ∧ targetOf off = .len r) ∧
  (∀ r : Reg, targetOf (0x0100 + 8 * r.val) = .len r)

/-- R72: reserved offsets and limbs at or above MAXLIMBS read as zero and ignore writes, busy or not. -/
def Obligations.ReservedOffsetsReadZeroIgnoreWrites : Prop :=
  ∀ (s : State) (off : Nat) (x : Word),
    ((0x00030 ≤ off ∧ off ≤ 0x000F8) ∨ (0x00180 ≤ off ∧ off ≤ 0x00FF8) ∨ (0x11000 ≤ off ∧ off ≤ 0x1FFF8) ∨
      (0x01000 ≤ off ∧ off ≤ 0x10FF8 ∧ s.cfg.maxLimbs ≤ (off - 0x1000) % 0x1000 / 8)) →
    s.readValue off = 0 ∧ s.hostWrite off x = s

/-- A bad access is recorded, changes nothing else, and its record is never cleared. R74 and R244 give the record, that no
state changes and that the record stays; that the machine goes on, that a hard or soft reset keeps the record too, and the
newest-first order are the model's reading and choice (log 5, DEDUCED and DESIGN CHOICE). -/
def Obligations.BadAccessGetsBusErrorForGood : Prop :=
  (∀ (s : State) (a : Access) (rest : List Event),
    s.agenda = .access a :: rest → inWindow s.cfg a.addr = true →
    (a.width ≠ 64 ∨ (a.addr - s.cfg.base) % 8 ≠ 0) →
    step s = .next { s with
      agenda := rest
      busErrors := { off := a.addr - s.cfg.base, width := a.width } :: s.busErrors }) ∧
  (∀ s t : State, step s = .next t → s.busErrors <:+ t.busErrors)

/-- An admitted access of the agenda is the `HostRead` or `HostWrite` of its offset (R72, R74, R84). -/
def Obligations.AdmittedAccessIsPerformed : Prop :=
  ∀ (s : State) (off : Nat) (x : Word) (rest : List Event), off < 0x20000 → off % 8 = 0 →
    (s.agenda = .access { addr := s.cfg.base + off, width := 64, kind := .read } :: rest →
      step s = .next ({ s with agenda := rest }.hostRead off)) ∧
    (s.agenda = .access { addr := s.cfg.base + off, width := 64, kind := .write x } :: rest →
      step s = .next ({ s with agenda := rest }.hostWrite off x))

/-- Every access outside the window stops the model with its fault, whatever its width, alignment and kind, and nothing
else stops it (log 7, a choice of the model). -/
def Obligations.StepStopsExactlyOutsideTheWindow : Prop :=
  (∀ (s : State) (a : Access) (rest : List Event), s.agenda = .access a :: rest →
    (a.addr < s.cfg.base ∨ s.cfg.base + 0x20000 ≤ a.addr) → step s = .fault (.outsideWindow a.addr)) ∧
  (∀ s : State, (∀ t, step s ≠ .next t) →
    ∃ a rest, s.agenda = .access a :: rest ∧ (a.addr < s.cfg.base ∨ s.cfg.base + 0x20000 ≤ a.addr))

/-- R80: a limb write replaces that limb and keeps every other limb and register. -/
def Obligations.LimbWriteReplacesOneLimb : Prop :=
  ∀ (s : State) (r : Reg) (i : Nat) (x : Word),
    i < s.cfg.maxLimbs → i < 512 → s.busy = false →
    ∃ t, s.hostWrite (0x1000 + 0x1000 * r.val + 8 * i) x = t ∧
      t = s.setReg r (s.reg r - limb (s.reg r) i * 2 ^ (64 * i) + x.toNat * 2 ^ (64 * i)) ∧
      limb (t.reg r) i = x.toNat ∧
      (∀ j, j ≠ i → limb (t.reg r) j = limb (s.reg r) j) ∧
      (∀ q, q ≠ r → t.reg q = s.reg q)

/-- R81: a limb read returns the limb, limbs at or above LEN read 0, and LEN and the limbs below it give the value. -/
def Obligations.LimbReadReturnsTheLimb : Prop :=
  ∀ (s : State) (r : Reg) (i : Nat),
    i < s.cfg.maxLimbs → i < 512 → s.busy = false →
    (s.readValue (0x1000 + 0x1000 * r.val + 8 * i)).toNat = limb (s.reg r) i ∧
    (nlimbs (s.reg r) ≤ i → s.readValue (0x1000 + 0x1000 * r.val + 8 * i) = 0) ∧
    limbsValue ((List.range (nlimbs (s.reg r))).map (limb (s.reg r))) = s.reg r

/-- R82: what a host write does while a command is in flight. -/
def Obligations.WritesWhileBusyAreDropped : Prop :=
  ∀ (s : State) (x : Word), s.busy = true →
    s.hostWrite 0x0020 x = { s with status := { s.status with ovr := true } } ∧
    s.hostWrite 0x0028 x = { s with status := { s.status with ovr := true } } ∧
    (∀ (r : Reg) (i : Nat), i < s.cfg.maxLimbs → i < 512 →
      s.hostWrite (0x1000 + 0x1000 * r.val + 8 * i) x = { s with status := { s.status with ovr := true } }) ∧
    (∀ off, (targetOf off = .id ∨ targetOf off = .param ∨ (∃ r, targetOf off = .len r) ∨
      targetOf off = .reserved) → s.hostWrite off x = s) ∧
    (∀ off t, s.hostWrite off x = t → off ≠ 0x0010 → t.ctrl = s.ctrl) ∧
    (∀ off t, s.hostWrite off x = t → off ≠ 0x0010 ∨ x.getLsbD 6 = false →
      t.v = s.v ∧ t.scalar = s.scalar ∧ t.inflight = s.inflight) ∧
    (x.getLsbD 6 = false → (s.hostWrite 0x0010 x).ctrl = Ctrl.ofWord x) ∧
    (s.hostWrite 0x0018 x).status = s.status.writeOneToClear x

/-- R83, R85: a read gives its value to the host and changes no architectural state; while busy, LEN and the limbs read
as the next free value, which no register decides, and the other reads are exact (log 4). -/
def Obligations.ReadsWhileBusyAreFreeDraws : Prop :=
  (∀ (s : State) (off : Nat), ∃ n,
    s.hostRead off =
      { s with replies := { off := off, data := s.readValue off } :: s.replies, draws := n } ∧
    (s.busy = false → n = s.draws)) ∧
  (∀ (s : State) (r : Reg), s.busy = true →
    s.readValue (0x0100 + 8 * r.val) = Config.freeWord s.draws ∧
    (s.hostRead (0x0100 + 8 * r.val)).draws = s.draws + 1) ∧
  (∀ (s : State) (r : Reg) (i : Nat), s.busy = true → i < s.cfg.maxLimbs → i < 512 →
    s.readValue (0x1000 + 0x1000 * r.val + 8 * i) = Config.freeWord s.draws ∧
    (s.hostRead (0x1000 + 0x1000 * r.val + 8 * i)).draws = s.draws + 1) ∧
  (∀ (s : State) (off : Nat), s.busy = true →
    off = 0x0000 ∨ off = 0x0008 ∨ off = 0x0010 ∨ off = 0x0020 ∨ off = 0x0028 →
    s.readValue off = { s with inflight := none }.readValue off)

/-- R38: accept, idle and busy. -/
def Obligations.AcceptLatchesTheCommand : Prop :=
  ∀ (s : State) (x : Word),
    (s.busy = false →
      s.hostWrite 0x0020 x =
        { s with
          inflight := some x
          status := { s.status with done := false, err := false, errcode := none } }) ∧
    (s.busy = true → s.hostWrite 0x0020 x = { s with status := { s.status with ovr := true } }) ∧
    (s.hostWrite 0x0020 x).busy = true

/-- R49: all 64 bits of SCALAR read and write; a write while busy is dropped and sets OVR; it resets to 0. -/
def Obligations.ScalarReadsAndWritesAllBits : Prop :=
  ∀ (s : State) (x : Word),
    s.readValue 0x0028 = s.scalar ∧
    (s.busy = false → s.hostWrite 0x0028 x = { s with scalar := x }) ∧
    (s.busy = true → s.hostWrite 0x0028 x = { s with status := { s.status with ovr := true } }) ∧
    s.hardReset.scalar = 0 ∧ State.reset.scalar = 0

/-- R50: LEN[r] reads the canonical limb count, between 1 and MAXLIMBS, and is read-only. -/
def Obligations.LenReadsTheLimbCount : Prop :=
  (∀ (s : State) (r : Reg) (x : Word), s.Inv → s.busy = false →
    (s.readValue (0x0100 + 8 * r.val)).toNat = nlimbs (s.reg r) ∧
    1 ≤ nlimbs (s.reg r) ∧ nlimbs (s.reg r) ≤ s.cfg.maxLimbs ∧
    s.hostWrite (0x0100 + 8 * r.val) x = s) ∧
  (∀ (s : State) (r : Reg), s.hardReset.readValue (0x0100 + 8 * r.val) = 1)

/-- R13: limbs, the canonical limb count, and which values a big register of `ml` limbs can hold. -/
def Obligations.LimbCountIsTheLeast : Prop :=
  (∀ v i, limb v i = bits v (64 * i + 63) (64 * i)) ∧ nlimbs 0 = 1 ∧
  (∀ v, 1 ≤ v → v < 2 ^ (64 * nlimbs v) ∧ ∀ n, v < 2 ^ (64 * n) → nlimbs v ≤ n) ∧
  (∀ v ml, 1 ≤ ml → (fits ml v = true ↔ v < 2 ^ (64 * ml)))

/-- R234: the IRQ output at every moment, what raises it and what clears it. -/
def Obligations.IrqIsEnableAndDone : Prop :=
  ∀ s : State,
    (s.irq = true ↔ s.ctrl.ie = true ∧ s.status.done = true) ∧
    (∀ line, s.drivesLine line = true ↔ line = s.cfg.irqLine ∧ s.irq = true) ∧
    (∀ x : Word, x.getLsbD 1 = true → (s.hostWrite 0x0018 x).irq = false) ∧
    (∀ x : Word, s.busy = false → (s.hostWrite 0x0020 x).irq = false) ∧
    s.hardReset.irq = false ∧
    (∀ x : Word, x.getLsbD 6 = false → (s.hostWrite 0x0010 x).irq = (x.getLsbD 0 && s.status.done)) ∧
    (∀ i t, exec i s = .next t → t.irq = s.ctrl.ie)

/-! ### Encoding and the command in flight -/

/-- Decode and encode agree: every command comes back from the bytes of the `CMD` write that carries it. -/
def Obligations.DecodeOfEncodeIsTheCommand : Prop :=
  ∀ i : Instr, decodeBytes (bytesOfWord (commandValue i)) = .ok i

/-- The decoder is strict: a value it reads as a command is that command's own `CMD` value. -/
def Obligations.DecodedValueIsItsEncoding : Prop :=
  ∀ (w : Word) (i : Instr), decode w = .ok i → w = commandValue i

/-- R112: the decoder reads a row's command exactly from the words the printed mask and match admit, and no word has two
rows. -/
def Obligations.DecoderFollowsThePrintedMasks : Prop :=
  (∀ (w : Word) (row : Opcode × Nat × Nat), w.toNat < 2 ^ 32 → row ∈ printedMasks →
    ((∃ i, decode w = .ok i ∧ i.opcode = row.1) ↔ w.toNat &&& row.2.2 = row.2.1)) ∧
  (∀ (w : Nat) (p q : Opcode × Nat × Nat), p ∈ printedMasks → q ∈ printedMasks →
    w &&& p.2.2 = p.2.1 → w &&& q.2.2 = q.2.1 → p = q)

/-- R222: a command completes with ILLEGAL_COMMAND exactly for the values R112 calls illegal, whatever the operands
hold. -/
def Obligations.IllegalCommandExactlyForIllegalValues : Prop :=
  ∀ (s : State) (w : Word), s.inflight = some w → s.agenda = [] →
    (illegalValue w ↔ step s = .next (s.failed .illegalCommand)) ∧
    (illegalValue w ↔ ∃ t, step s = .next t ∧ t.status.errcode = some .illegalCommand)

/-- Command words printed in the spec's examples decode to the commands they stand for (30_encoding.md R121;
95_test_vectors.md). -/
def Obligations.PrintedWordsDecode : Prop :=
  decodeTableWord 32 0x00000000 = some .nop ∧
  decodeTableWord 32 0x01002000 = some (.cmp 2 0) ∧
  decodeTableWord 32 0x02200100 = some (.add 2 0 1) ∧
  decodeTableWord 32 0x06230100 = some (.div 2 3 0 1) ∧
  decodeTableWord 32 0x10503420 = some (.modpow 5 3 4 2) ∧
  decodeTableWord 32 0x13230140 = some (.egcd 2 3 4 0 1) ∧
  decodeTableWord 32 0x14A07050 = some (.modinv 10 7 5) ∧
  decodeTableWord 32 0x22100000 = some (.lds 1)

/-- R39, R77: the CORE's turn completes the command latched in INFLIGHT; an idle CORE waits (log 3). -/
def Obligations.CoreTurnRunsTheDecodedCommand : Prop :=
  (∀ (s : State) (w : Word) (i : Instr), s.inflight = some w → decodeBytes (bytesOfWord w) = .ok i →
    (s.agenda = [] → step s = exec i s) ∧
    (∀ rest, s.agenda = .coreTurn :: rest → step s = exec i { s with agenda := rest })) ∧
  (∀ s : State, s.inflight = none → s.agenda = [] → step s = .next s)

/-! ### The commands -/

/-- R200 to R203: NOP, CLR, MOV and LDS complete on every state. -/
def Obligations.DataMovementResults : Prop :=
  ∀ (s : State) (d a : Reg),
    exec .nop s = .next s.finished ∧
    exec (.clr d) s = .next (s.setReg d 0).finished ∧
    exec (.mov d a) s = .next (s.setReg d (s.reg a)).finished ∧
    exec (.lds d) s = .next (s.setReg d s.scalar.toNat).finished ∧
    (encode .nop).toNat = 0 ∧
    (encode (.clr d)).toNat = 0x20000000 + d.val * 2 ^ 20 ∧
    (encode (.mov d a)).toNat = 0x21000000 + d.val * 2 ^ 20 + a.val * 2 ^ 12 ∧
    (encode (.lds d)).toNat = 0x22000000 + d.val * 2 ^ 20

/-- R131: CMP is numeric comparison and writes CR only. -/
def Obligations.CompareIsNumeric : Prop :=
  ∀ (s : State) (a b : Reg),
    exec (.cmp a b) s = .next
      (s.withCr (if s.reg a < s.reg b then .less
        else if s.reg a = s.reg b then .equal else .greater)).finished ∧
    (encode (.cmp a b)).toNat = 0x01000000 + a.val * 2 ^ 12 + b.val * 2 ^ 8

/-- R132: ADD writes the exact sum, or raises CAPACITY, which for operands that fit happens only when a carry leaves limb
MAXLIMBS − 1. -/
def Obligations.AddWritesTheSumOrCapacity : Prop :=
  ∀ (s : State) (d a b : Reg),
    (nlimbs (s.reg a + s.reg b) ≤ s.cfg.maxLimbs →
      exec (.add d a b) s = .next (s.setReg d (s.reg a + s.reg b)).finished) ∧
    (s.cfg.maxLimbs < nlimbs (s.reg a + s.reg b) → exec (.add d a b) s = .next (s.failed .capacity)) ∧
    (nlimbs (s.reg a) ≤ s.cfg.maxLimbs → nlimbs (s.reg b) ≤ s.cfg.maxLimbs →
      s.cfg.maxLimbs < nlimbs (s.reg a + s.reg b) →
      (rippleLoop (s.reg a) (s.reg b) s.cfg.maxLimbs).2 = 1) ∧
    (encode (.add d a b)).toNat = 0x02000000 + d.val * 2 ^ 20 + a.val * 2 ^ 12 + b.val * 2 ^ 8

/-- R133: SUB writes the exact difference, or raises UNDERFLOW. -/
def Obligations.SubWritesTheDifferenceOrUnderflow : Prop :=
  ∀ (s : State) (d a b : Reg),
    (s.reg b ≤ s.reg a → exec (.sub d a b) s = .next (s.setReg d (s.reg a - s.reg b)).finished) ∧
    (s.reg a < s.reg b → exec (.sub d a b) s = .next (s.failed .underflow)) ∧
    (encode (.sub d a b)).toNat = 0x03000000 + d.val * 2 ^ 20 + a.val * 2 ^ 12 + b.val * 2 ^ 8

/-- R134, R135: MULS and MUL write the exact product, or raise CAPACITY. -/
def Obligations.MultiplyWritesTheProductOrCapacity : Prop :=
  ∀ (s : State) (d a b : Reg),
    (nlimbs (s.reg a * s.scalar.toNat) ≤ s.cfg.maxLimbs →
      exec (.muls d a) s = .next (s.setReg d (s.reg a * s.scalar.toNat)).finished) ∧
    (s.cfg.maxLimbs < nlimbs (s.reg a * s.scalar.toNat) →
      exec (.muls d a) s = .next (s.failed .capacity)) ∧
    (nlimbs (s.reg a * s.reg b) ≤ s.cfg.maxLimbs →
      exec (.mul d a b) s = .next (s.setReg d (s.reg a * s.reg b)).finished) ∧
    (s.cfg.maxLimbs < nlimbs (s.reg a * s.reg b) → exec (.mul d a b) s = .next (s.failed .capacity)) ∧
    (encode (.muls d a)).toNat = 0x04000000 + d.val * 2 ^ 20 + a.val * 2 ^ 12 ∧
    (encode (.mul d a b)).toNat = 0x05000000 + d.val * 2 ^ 20 + a.val * 2 ^ 12 + b.val * 2 ^ 8

/-- R136, R109: DIV writes quotient and remainder, (0, a) for b > a, or raises DIVISION_BY_ZERO and writes neither; with
one register for both results it is ILLEGAL_COMMAND, whatever the operands hold. -/
def Obligations.DivWritesQuotientAndRemainder : Prop :=
  ∀ (s : State) (q r a b : Reg),
    (q ≠ r → s.reg b ≠ 0 → s.reg b ≤ s.reg a →
      exec (.div q r a b) s =
        .next ((s.setReg q (s.reg a / s.reg b)).setReg r (s.reg a % s.reg b)).finished) ∧
    (q ≠ r → s.reg a < s.reg b →
      exec (.div q r a b) s = .next ((s.setReg q 0).setReg r (s.reg a)).finished) ∧
    (q ≠ r → s.reg b = 0 → exec (.div q r a b) s = .next (s.failed .divisionByZero)) ∧
    (q = r → exec (.div q r a b) s = .next (s.failed .illegalCommand)) ∧
    (encode (.div q r a b)).toNat =
      0x06000000 + q.val * 2 ^ 20 + r.val * 2 ^ 16 + a.val * 2 ^ 12 + b.val * 2 ^ 8

/-- R137: MOD writes the remainder, the one DIV writes, or raises DIVISION_BY_ZERO. -/
def Obligations.ModWritesTheRemainder : Prop :=
  ∀ (s : State) (d a m : Reg),
    (s.reg m ≠ 0 → exec (.mod d a m) s = .next (s.setReg d (s.reg a % s.reg m)).finished) ∧
    (s.reg m = 0 → exec (.mod d a m) s = .next (s.failed .divisionByZero)) ∧
    (∀ q t u, q ≠ d → exec (.div q d a m) s = .next t → exec (.mod d a m) s = .next u →
      t.reg d = u.reg d) ∧
    (encode (.mod d a m)).toNat = 0x07000000 + d.val * 2 ^ 20 + a.val * 2 ^ 12 + m.val * 2 ^ 4

/-- R170: MODPOW writes base^exponent mod m, 0 for m = 1, or raises DIVISION_BY_ZERO for every exponent. -/
def Obligations.ModpowWritesThePower : Prop :=
  ∀ (s : State) (d base exp m : Reg),
    (2 ≤ s.reg m →
      exec (.modpow d base exp m) s =
        .next (s.setReg d (s.reg base ^ s.reg exp % s.reg m)).finished) ∧
    (s.reg m = 1 → exec (.modpow d base exp m) s = .next (s.setReg d 0).finished) ∧
    (s.reg m = 0 → exec (.modpow d base exp m) s = .next (s.failed .divisionByZero)) ∧
    (encode (.modpow d base exp m)).toNat =
      0x10000000 + d.val * 2 ^ 20 + base.val * 2 ^ 12 + exp.val * 2 ^ 8 + m.val * 2 ^ 4

/-- R175: MODMUL writes the product's remainder, with no limit on the product. -/
def Obligations.ModmulWritesTheProductsRemainder : Prop :=
  ∀ (s : State) (d a b m : Reg),
    (s.reg m ≠ 0 →
      exec (.modmul d a b m) s = .next (s.setReg d (s.reg a * s.reg b % s.reg m)).finished) ∧
    (s.reg m = 0 → exec (.modmul d a b m) s = .next (s.failed .divisionByZero)) ∧
    (encode (.modmul d a b m)).toNat =
      0x11000000 + d.val * 2 ^ 20 + a.val * 2 ^ 12 + b.val * 2 ^ 8 + m.val * 2 ^ 4

/-- R178: GCD writes the greatest common divisor, 0 for (0, 0). -/
def Obligations.GcdWritesTheGreatestCommonDivisor : Prop :=
  ∀ (s : State) (d a b : Reg),
    exec (.gcd d a b) s = .next (s.setReg d (Nat.gcd (s.reg a) (s.reg b))).finished ∧
    (encode (.gcd d a b)).toNat = 0x12000000 + d.val * 2 ^ 20 + a.val * 2 ^ 12 + b.val * 2 ^ 8

/-- R180, R109: EGCD writes g, |x|, |y| and the two signs of the recursion's result; with one register for two results it
is ILLEGAL_COMMAND. -/
def Obligations.EgcdWritesMagnitudesAndSigns : Prop :=
  ∀ (s : State) (g x y a b : Reg),
    (g ≠ x → g ≠ y → x ≠ y →
      exec (.egcd g x y a b) s = .next
        (((((s.setReg g (egcd (s.reg a) (s.reg b)).1).setReg x (egcd (s.reg a) (s.reg b)).2.1.natAbs).setReg y
          (egcd (s.reg a) (s.reg b)).2.2.natAbs).withSigns (decide ((egcd (s.reg a) (s.reg b)).2.1 < 0))
            (decide ((egcd (s.reg a) (s.reg b)).2.2 < 0))).finished)) ∧
    (g = x ∨ g = y ∨ x = y → exec (.egcd g x y a b) s = .next (s.failed .illegalCommand)) ∧
    (encode (.egcd g x y a b)).toNat =
      0x13000000 + g.val * 2 ^ 20 + x.val * 2 ^ 16 + a.val * 2 ^ 12 + b.val * 2 ^ 8 + y.val * 2 ^ 4

/-- R17: Euclid's loop and the extended-Euclid recursion, whatever bound their definitions run on. -/
def Obligations.EuclidRecursions : Prop :=
  (∀ v ml, fits ml v = true ↔ nlimbs v ≤ ml) ∧
  (∀ a, euclid a 0 = a) ∧ (∀ a b, 1 ≤ b → euclid a b = euclid b (a % b)) ∧
  (∀ a, egcd a 0 = (a, 1, 0)) ∧
  (∀ a b, 1 ≤ b →
    egcd a b = ((egcd b (a % b)).1, (egcd b (a % b)).2.2,
      (egcd b (a % b)).2.1 - (a / b : Nat) * (egcd b (a % b)).2.2))

/-- R181: the iterative datapath returns what the recursion returns. -/
def Obligations.EgcdLoopEqualsRecursion : Prop := ∀ a b : Nat, egcdIterative a b = egcd a b

/-- R182: the bounds of the coefficients, so that they fit wherever the operands do. -/
def Obligations.EgcdCoefficientsAreBounded : Prop :=
  ∀ a b : Nat,
    (egcd a b).2.1.natAbs ≤ max b 1 ∧ (egcd a b).2.2.natAbs ≤ max a 1 ∧
    ∀ ml, nlimbs a ≤ ml → nlimbs b ≤ ml →
      nlimbs (egcd a b).2.1.natAbs ≤ ml ∧ nlimbs (egcd a b).2.2.natAbs ≤ ml

/-- The signed values read back from the registers and the sign bits (R183) satisfy the Bezout identity with the greatest
common divisor (R180, R190), and a zero coefficient has sign 0 (R183). -/
def Obligations.EgcdSatisfiesBezout : Prop :=
  ∀ (s : State) (g x y a b : Reg), g ≠ x → g ≠ y → x ≠ y →
    ∃ t, exec (.egcd g x y a b) s = .next t ∧
      t.reg g = Nat.gcd (s.reg a) (s.reg b) ∧
      (s.reg a : Int) * (signOf t.status.xneg * t.reg x) + s.reg b * (signOf t.status.yneg * t.reg y)
        = t.reg g ∧
      (t.reg x = 0 → t.status.xneg = false) ∧ (t.reg y = 0 → t.status.yneg = false)

/-- R185: MODINV writes the inverse, the sentinel 0 when there is none, or raises DIVISION_BY_ZERO for (1, 0). -/
def Obligations.ModinvWritesTheInverse : Prop :=
  ∀ (s : State) (d a m : Reg),
    (Nat.gcd (s.reg a) (s.reg m) ≠ 1 → exec (.modinv d a m) s = .next (s.setReg d 0).finished) ∧
    (s.reg a = 1 → s.reg m = 0 → exec (.modinv d a m) s = .next (s.failed .divisionByZero)) ∧
    (Nat.gcd (s.reg a) (s.reg m) = 1 → s.reg m ≠ 0 →
      exec (.modinv d a m) s =
        .next (s.setReg d ((egcd (s.reg a) (s.reg m)).2.1 % (s.reg m : Int)).toNat).finished) ∧
    (∀ t, Nat.gcd (s.reg a) (s.reg m) = 1 → 2 ≤ s.reg m → exec (.modinv d a m) s = .next t →
      1 ≤ t.reg d ∧ t.reg d < s.reg m ∧ s.reg a * t.reg d % s.reg m = 1) ∧
    (encode (.modinv d a m)).toNat = 0x14000000 + d.val * 2 ^ 20 + a.val * 2 ^ 12 + m.val * 2 ^ 4

/-- R148: SUB undoes ADD, and DIV's quotient and remainder give the dividend back. -/
def Obligations.ArithmeticLaws : Prop :=
  (∀ (s : State) (d e a b : Reg), d ≠ b → nlimbs (s.reg a + s.reg b) ≤ s.cfg.maxLimbs →
    ∃ t u, exec (.add d a b) s = .next t ∧ exec (.sub e d b) t = .next u ∧ u.reg e = s.reg a) ∧
  (∀ (s : State) (q r a b : Reg), q ≠ r → s.reg b ≠ 0 →
    ∃ t, exec (.div q r a b) s = .next t ∧
      t.reg q * s.reg b + t.reg r = s.reg a ∧ t.reg r < s.reg b)

/-! ### Reference datapaths -/

/-- R140: the ripple-carry adder gives the exact sum, with a carry of 0 or 1. -/
def Obligations.RippleAdderIsExact : Prop :=
  ∀ a b : Nat, rippleAdd a b = a + b ∧ ∀ n, (rippleLoop a b n).2 ≤ 1

/-- R141: the borrow-propagating subtractor gives the exact difference and no borrow is left. -/
def Obligations.BorrowSubtractorIsExact : Prop :=
  ∀ a b : Nat, b ≤ a → borrowSub a b = a - b ∧ (borrowLoop a b (nlimbs a)).2 = 0

/-- R142: the schoolbook multiplier gives the exact product, and its accumulator never exceeds 128 bits. -/
def Obligations.SchoolbookMultiplierIsExact : Prop :=
  ∀ a b : Nat, schoolbookMul a b = a * b ∧
    ∀ i j, i < nlimbs a → j < nlimbs b → mulAccumulator a b i j < 2 ^ 128

/-- R143: long division finds the largest digit at every turn and gives quotient and remainder. -/
def Obligations.LongDivisionIsExact : Prop :=
  ∀ a b : Nat, 1 ≤ b → longDiv a b = (a / b, a % b) ∧
    ∀ r, quotientDigit b r < 2 ^ 64 ∧ quotientDigit b r * b ≤ r ∧
      ∀ d, d < 2 ^ 64 → d * b ≤ r → d ≤ quotientDigit b r

/-! ### Errors -/

/-- R223: which commands raise DIVISION_BY_ZERO, and when. -/
def Obligations.DivisionByZeroExactly : Prop :=
  ∀ (i : Instr) (s t : State), exec i s = .next t →
    (t.status.errcode = some .divisionByZero ↔
      (∃ q r a b, i = .div q r a b ∧ q ≠ r ∧ s.reg b = 0) ∨
      (∃ d a m, i = .mod d a m ∧ s.reg m = 0) ∨
      (∃ d a b m, i = .modpow d a b m ∧ s.reg m = 0) ∨
      (∃ d a b m, i = .modmul d a b m ∧ s.reg m = 0) ∨
      (∃ d a m, i = .modinv d a m ∧ s.reg a = 1 ∧ s.reg m = 0))

/-- R224: UNDERFLOW is raised by SUB when V[A] < V[B], and by nothing else. -/
def Obligations.UnderflowExactly : Prop :=
  ∀ (i : Instr) (s t : State), exec i s = .next t →
    (t.status.errcode = some .underflow ↔ ∃ d a b, i = .sub d a b ∧ s.reg a < s.reg b)

/-- R225: CAPACITY is raised by ADD, MULS and MUL when the result needs more than MAXLIMBS limbs, and by nothing
else. -/
def Obligations.CapacityExactly : Prop :=
  ∀ (i : Instr) (s t : State), exec i s = .next t →
    (t.status.errcode = some .capacity ↔
      (∃ d a b, i = .add d a b ∧ s.cfg.maxLimbs < nlimbs (s.reg a + s.reg b)) ∨
      (∃ d a, i = .muls d a ∧ s.cfg.maxLimbs < nlimbs (s.reg a * s.scalar.toNat)) ∨
      (∃ d a b, i = .mul d a b ∧ s.cfg.maxLimbs < nlimbs (s.reg a * s.reg b)))

/-- R227: a command that raises an error changes only BUSY, DONE, ERR, ERRCODE and INFLIGHT, an undecodable value
included. -/
def Obligations.ErrorsArePrecise : Prop :=
  (∀ (i : Instr) (s t : State), exec i s = .next t → t.status.err = true → ∃ e, t = s.failed e) ∧
  (∀ (s t : State) (w : Word), s.inflight = some w → s.agenda = [] → step s = .next t →
    t.status.err = true → ∃ e, t = s.failed e)

/-! ### Whole-machine statements -/

/-- Every command completes on every state: one step, BUSY falls, DONE rises, and ERR tells whether there is a code
(R39, R275). -/
def Obligations.EveryCommandCompletes : Prop :=
  ∀ (i : Instr) (s : State), ∃ t, exec i s = .next t ∧ t.inflight = none ∧ t.busy = false ∧
    t.status.done = true ∧ (t.status.err = true ↔ t.status.errcode ≠ none)

/-- The frame of all sixteen commands (R105): registers outside the destinations, CR but for CMP, the signs but for EGCD,
OVR, SCALAR, CTRL, the configuration and the host side are unchanged. There is no memory (20_memory.md R71). -/
def Obligations.CommandFrame : Prop :=
  ∀ (i : Instr) (s t : State), exec i s = .next t →
    (∀ r, r ∉ i.dests → t.reg r = s.reg r) ∧
    ((∀ a b, i ≠ .cmp a b) → t.status.cr = s.status.cr) ∧
    ((∀ g x y a b, i ≠ .egcd g x y a b) → t.status.xneg = s.status.xneg ∧ t.status.yneg = s.status.yneg) ∧
    t.status.ovr = s.status.ovr ∧ t.scalar = s.scalar ∧ t.ctrl = s.ctrl ∧ t.cfg = s.cfg ∧
    t.agenda = s.agenda ∧ t.replies = s.replies ∧ t.busErrors = s.busErrors ∧ t.draws = s.draws

/-- The frame as the host sees it: after a command, every offset but STATUS and the LEN and limbs of its destinations
reads what it read before (idle reads on both sides). -/
def Obligations.CommandFrameInTheWindow : Prop :=
  ∀ (i : Instr) (s t : State) (off : Nat), exec i s = .next t → off ≠ 0x0018 →
    (∀ r ∈ i.dests, targetOf off ≠ .len r ∧ ∀ k, targetOf off ≠ .limb r k) →
    t.readValue off = { s with inflight := none }.readValue off

/-- R39: Execute is a function of the command, the big registers and SCALAR, of nothing else of the state (MAXLIMBS is the
machine's constant): its error, its V writes, CMP's CR and the signs of an EGCD with different destinations. CTRL's hints
change no result (R172, R173). -/
def Obligations.CommandsDependOnRegistersOnly : Prop :=
  (∀ (i : Instr) (s t u t' : State), s.v = u.v → s.scalar = u.scalar → s.cfg.maxLimbs = u.cfg.maxLimbs →
    exec i s = .next t → exec i u = .next t' →
    t.v = t'.v ∧ t.status.err = t'.status.err ∧ t.status.errcode = t'.status.errcode ∧
    (∀ a b, i = .cmp a b → t.status.cr = t'.status.cr) ∧
    (∀ g x y a b, i = .egcd g x y a b → g ≠ x → g ≠ y → x ≠ y →
      t.status.xneg = t'.status.xneg ∧ t.status.yneg = t'.status.yneg)) ∧
  (∀ (i : Instr) (s t : State) (c : Ctrl), exec i s = .next t →
    exec i { s with ctrl := c } = .next { t with ctrl := c })

/-- R235: a W1C of DONE ordered before a completion does not clear the DONE that the completion sets; a reset, hard or
soft, ordered before a completion removes the command, so that completion never happens and DONE stays 0. -/
def Obligations.EventsBeforeACompletion : Prop :=
  (∀ (s : State) (w x : Word) (rest : List Event), s.inflight = some w →
    s.agenda = .access { addr := s.cfg.base + 0x0018, width := 64, kind := .write x } :: .coreTurn :: rest →
    ∃ t, Sys2Proof.core.run 2 s = .next t ∧ t.status.done = true ∧ t.inflight = none ∧ t.agenda = rest) ∧
  (∀ (s : State) (e : Event) (x : Word) (rest : List Event), x.getLsbD 6 = true →
    e = .hardReset ∨ e = .access { addr := s.cfg.base + 0x0010, width := 64, kind := .write x } →
    s.agenda = e :: .coreTurn :: rest →
    ∃ t, Sys2Proof.core.run 2 s = .next t ∧ t.inflight = none ∧ t.status.done = false ∧
      (∀ r, t.reg r = 0) ∧ t.agenda = rest)

/-- A command in flight is completed unless a reset comes first (R275, which gives no upper bound). The bound, one step more
than the agenda has events, is the model's choice: with an empty agenda the CORE moves (log 2); that an access outside the
window is excluded too is its other choice: such an access stops the model (log 7). -/
def Obligations.AcceptedCommandIsCompleted : Prop :=
  ∀ (s : State) (w : Word), s.inflight = some w → (∀ e ∈ s.agenda, e.interrupts s.cfg = false) →
    ∃ k t u, k ≤ s.agenda.length ∧ Sys2Proof.core.run k s = .next t ∧ t.inflight = some w ∧ t.v = s.v ∧
      t.scalar = s.scalar ∧ step t = .next u ∧ u.inflight = none ∧ u.status.done = true

/-- The invariant of the machine: capacity of the registers, legal EXPWIN, ERR and ERRCODE, no stale result while busy;
every step keeps it, and no step changes the configuration (R20, R32, R46, R47). -/
def Obligations.StepKeepsTheInvariant : Prop :=
  ∀ s t : State, s.Inv → step s = .next t → t.Inv ∧ t.cfg = s.cfg

/-- The invariant holds after reset, for every configuration in the ranges of R9. -/
def Obligations.ResetMeetsTheInvariant : Prop :=
  State.reset.Inv ∧ ∀ c : Config, c.wf = true → (State.resetWith c).Inv
end

