-- ==== Sys2Proof/Laws/Limbs.lean ====
section
/-! SUPPORT. The limb functions in the terms of powers of two, which the other proofs cite. -/

namespace Sys2Proof.Machine

theorem limb_lt (v i : Nat) : limb v i < 2 ^ 64 := Nat.mod_lt _ (by decide)

theorem nlimbs_pos (v : Nat) : 1 ≤ nlimbs v := by
  unfold nlimbs; split <;> omega

/-- A limb count bounds a value exactly when the value is below the matching power of two. -/
theorem nlimbs_le_iff {v n : Nat} (hn : 1 ≤ n) : nlimbs v ≤ n ↔ v < 2 ^ (64 * n) := by
  by_cases hv : v = 0
  · subst hv; simp [nlimbs, hn]
  · rw [← Nat.log2_lt hv]
    simp only [nlimbs, hv, if_false]
    omega

theorem nlimbs_mono {u v : Nat} (h : u ≤ v) : nlimbs u ≤ nlimbs v := by
  have hp := nlimbs_pos v
  exact (nlimbs_le_iff hp).2 (Nat.lt_of_le_of_lt h ((nlimbs_le_iff hp).1 (Nat.le_refl _)))

theorem fits_iff (ml v : Nat) : fits ml v = true ↔ nlimbs v ≤ ml := by simp [fits]

/-- A value splits into the part below limb `i`, limb `i`, and the part above it. -/
theorem split_at_limb (v i : Nat) :
    v = v % 2 ^ (64 * i) + limb v i * 2 ^ (64 * i) + v / 2 ^ (64 * (i + 1)) * 2 ^ (64 * (i + 1)) := by
  have h1 := Nat.div_add_mod v (2 ^ (64 * i))
  have h2 := Nat.div_add_mod (v / 2 ^ (64 * i)) (2 ^ 64)
  have h3 : 2 ^ (64 * (i + 1)) = 2 ^ (64 * i) * 2 ^ 64 := by rw [← Nat.pow_add]; congr 1
  have h4 : v / 2 ^ (64 * (i + 1)) = v / 2 ^ (64 * i) / 2 ^ 64 := by rw [h3, Nat.div_div_eq_div_mul]
  unfold limb
  rw [h4, h3]
  calc v = 2 ^ (64 * i) * (v / 2 ^ (64 * i)) + v % 2 ^ (64 * i) := h1.symm
    _ = 2 ^ (64 * i) * (2 ^ 64 * (v / 2 ^ (64 * i) / 2 ^ 64) + v / 2 ^ (64 * i) % 2 ^ 64)
          + v % 2 ^ (64 * i) := by rw [h2]
    _ = _ := by ring

/-- The part of a value below limb `i + 1`. -/
theorem mod_pow_succ_limb (v i : Nat) :
    v % 2 ^ (64 * (i + 1)) = v % 2 ^ (64 * i) + limb v i * 2 ^ (64 * i) := by
  have h3 : 2 ^ (64 * (i + 1)) = 2 ^ (64 * i) * 2 ^ 64 := by rw [← Nat.pow_add]; congr 1
  rw [h3, Nat.mod_mul, limb, Nat.mul_comm (2 ^ (64 * i))]

end Sys2Proof.Machine
end

