-- ==== Sys2Proof/Laws/State.lean ====
section
/-! SUPPORT. The small lemmas of the state: what every update does to every field it does not name, and how a register
reads after a write. -/

namespace Sys2Proof.Machine

/-! ### Register reads and writes -/

@[simp] theorem reg_setReg_self (s : State) (r : Reg) (x : Nat) : (s.setReg r x).reg r = x := by
  simp [State.reg, State.setReg]

theorem reg_setReg_ne (s : State) {r q : Reg} (x : Nat) (h : q ≠ r) : (s.setReg r x).reg q = s.reg q := by
  have : r.val ≠ q.val := fun e => h (Fin.ext e.symm)
  simp [State.reg, State.setReg, this]

theorem reg_setReg (s : State) (r q : Reg) (x : Nat) :
    (s.setReg r x).reg q = if q = r then x else s.reg q := by
  split
  · next h => subst h; simp
  · next h => exact reg_setReg_ne s x h

/-- Equal register files read equally. -/
theorem reg_congr {s t : State} (h : s.v = t.v) (r : Reg) : s.reg r = t.reg r := by simp [State.reg, h]

/-! ### Fields after a register write -/

@[simp] theorem setReg_cfg (s : State) (r : Reg) (x : Nat) : (s.setReg r x).cfg = s.cfg := rfl
@[simp] theorem setReg_scalar (s : State) (r : Reg) (x : Nat) : (s.setReg r x).scalar = s.scalar := rfl
@[simp] theorem setReg_ctrl (s : State) (r : Reg) (x : Nat) : (s.setReg r x).ctrl = s.ctrl := rfl
@[simp] theorem setReg_status (s : State) (r : Reg) (x : Nat) : (s.setReg r x).status = s.status := rfl
@[simp] theorem setReg_inflight (s : State) (r : Reg) (x : Nat) : (s.setReg r x).inflight = s.inflight := rfl
@[simp] theorem setReg_agenda (s : State) (r : Reg) (x : Nat) : (s.setReg r x).agenda = s.agenda := rfl
@[simp] theorem setReg_replies (s : State) (r : Reg) (x : Nat) : (s.setReg r x).replies = s.replies := rfl
@[simp] theorem setReg_busErrors (s : State) (r : Reg) (x : Nat) : (s.setReg r x).busErrors = s.busErrors := rfl
@[simp] theorem setReg_draws (s : State) (r : Reg) (x : Nat) : (s.setReg r x).draws = s.draws := rfl
@[simp] theorem setReg_busy (s : State) (r : Reg) (x : Nat) : (s.setReg r x).busy = s.busy := rfl

/-! ### Fields after an erring completion -/

@[simp] theorem completeError_cfg (s : State) (e : CommandError) : (s.completeError e).cfg = s.cfg := rfl
@[simp] theorem completeError_reg (s : State) (e : CommandError) (r : Reg) :
    (s.completeError e).reg r = s.reg r := rfl
@[simp] theorem completeError_v (s : State) (e : CommandError) : (s.completeError e).v = s.v := rfl
@[simp] theorem completeError_scalar (s : State) (e : CommandError) : (s.completeError e).scalar = s.scalar := rfl
@[simp] theorem completeError_ctrl (s : State) (e : CommandError) : (s.completeError e).ctrl = s.ctrl := rfl
@[simp] theorem completeError_done (s : State) (e : CommandError) : (s.completeError e).status.done = true := rfl
@[simp] theorem completeError_err (s : State) (e : CommandError) : (s.completeError e).status.err = true := rfl
@[simp] theorem completeError_errcode (s : State) (e : CommandError) :
    (s.completeError e).status.errcode = some e := rfl
@[simp] theorem completeError_cr (s : State) (e : CommandError) : (s.completeError e).status.cr = s.status.cr := rfl
@[simp] theorem completeError_xneg (s : State) (e : CommandError) :
    (s.completeError e).status.xneg = s.status.xneg := rfl
@[simp] theorem completeError_yneg (s : State) (e : CommandError) :
    (s.completeError e).status.yneg = s.status.yneg := rfl
@[simp] theorem completeError_ovr (s : State) (e : CommandError) : (s.completeError e).status.ovr = s.status.ovr := rfl
@[simp] theorem completeError_inflight (s : State) (e : CommandError) : (s.completeError e).inflight = none := rfl
@[simp] theorem completeError_busy (s : State) (e : CommandError) : (s.completeError e).busy = false := rfl
@[simp] theorem completeError_agenda (s : State) (e : CommandError) : (s.completeError e).agenda = s.agenda := rfl
@[simp] theorem completeError_replies (s : State) (e : CommandError) : (s.completeError e).replies = s.replies := rfl
@[simp] theorem completeError_busErrors (s : State) (e : CommandError) :
    (s.completeError e).busErrors = s.busErrors := rfl
@[simp] theorem completeError_draws (s : State) (e : CommandError) : (s.completeError e).draws = s.draws := rfl

/-- The error entry in the terms of the claims. -/
theorem completeError_eq_failed (s : State) (e : CommandError) : s.completeError e = s.failed e := rfl

/-! ### Fields after a successful completion -/

@[simp] theorem completeOk_cfg (s : State) (w : Staged) : (s.completeOk w).cfg = s.cfg := rfl
@[simp] theorem completeOk_v (s : State) (w : Staged) : (s.completeOk w).v = applyWrites s.v w.writes := rfl
@[simp] theorem completeOk_scalar (s : State) (w : Staged) : (s.completeOk w).scalar = s.scalar := rfl
@[simp] theorem completeOk_ctrl (s : State) (w : Staged) : (s.completeOk w).ctrl = s.ctrl := rfl
@[simp] theorem completeOk_done (s : State) (w : Staged) : (s.completeOk w).status.done = true := rfl
@[simp] theorem completeOk_err (s : State) (w : Staged) : (s.completeOk w).status.err = false := rfl
@[simp] theorem completeOk_errcode (s : State) (w : Staged) : (s.completeOk w).status.errcode = none := rfl
@[simp] theorem completeOk_cr (s : State) (w : Staged) :
    (s.completeOk w).status.cr = w.cr.getD s.status.cr := rfl
@[simp] theorem completeOk_xneg (s : State) (w : Staged) :
    (s.completeOk w).status.xneg = (w.signs.map Prod.fst).getD s.status.xneg := rfl
@[simp] theorem completeOk_yneg (s : State) (w : Staged) :
    (s.completeOk w).status.yneg = (w.signs.map Prod.snd).getD s.status.yneg := rfl
@[simp] theorem completeOk_ovr (s : State) (w : Staged) : (s.completeOk w).status.ovr = s.status.ovr := rfl
@[simp] theorem completeOk_inflight (s : State) (w : Staged) : (s.completeOk w).inflight = none := rfl
@[simp] theorem completeOk_busy (s : State) (w : Staged) : (s.completeOk w).busy = false := rfl
@[simp] theorem completeOk_agenda (s : State) (w : Staged) : (s.completeOk w).agenda = s.agenda := rfl
@[simp] theorem completeOk_replies (s : State) (w : Staged) : (s.completeOk w).replies = s.replies := rfl
@[simp] theorem completeOk_busErrors (s : State) (w : Staged) : (s.completeOk w).busErrors = s.busErrors := rfl
@[simp] theorem completeOk_draws (s : State) (w : Staged) : (s.completeOk w).draws = s.draws := rfl

/-! ### Fields after a reset -/

@[simp] theorem hardReset_cfg (s : State) : s.hardReset.cfg = s.cfg := rfl
@[simp] theorem hardReset_reg (s : State) (r : Reg) : s.hardReset.reg r = 0 := by
  simp [State.hardReset, State.resetWith, State.reg]
@[simp] theorem hardReset_scalar (s : State) : s.hardReset.scalar = 0 := rfl
@[simp] theorem hardReset_ctrl (s : State) : s.hardReset.ctrl = Ctrl.afterReset := rfl
@[simp] theorem hardReset_status (s : State) : s.hardReset.status = Status.afterReset := rfl
@[simp] theorem hardReset_inflight (s : State) : s.hardReset.inflight = none := rfl
@[simp] theorem hardReset_busy (s : State) : s.hardReset.busy = false := rfl
@[simp] theorem hardReset_agenda (s : State) : s.hardReset.agenda = s.agenda := rfl
@[simp] theorem hardReset_replies (s : State) : s.hardReset.replies = s.replies := rfl
@[simp] theorem hardReset_busErrors (s : State) : s.hardReset.busErrors = s.busErrors := rfl
@[simp] theorem hardReset_draws (s : State) : s.hardReset.draws = s.draws := rfl

/-! ### Fields after a STATUS write and after a dropped write -/

@[simp] theorem acknowledge_cfg (s : State) (x : Word) : (s.acknowledge x).cfg = s.cfg := rfl
@[simp] theorem acknowledge_reg (s : State) (x : Word) (r : Reg) : (s.acknowledge x).reg r = s.reg r := rfl
@[simp] theorem acknowledge_v (s : State) (x : Word) : (s.acknowledge x).v = s.v := rfl
@[simp] theorem acknowledge_scalar (s : State) (x : Word) : (s.acknowledge x).scalar = s.scalar := rfl
@[simp] theorem acknowledge_ctrl (s : State) (x : Word) : (s.acknowledge x).ctrl = s.ctrl := rfl
@[simp] theorem acknowledge_status (s : State) (x : Word) :
    (s.acknowledge x).status = s.status.writeOneToClear x := rfl
@[simp] theorem acknowledge_inflight (s : State) (x : Word) : (s.acknowledge x).inflight = s.inflight := rfl
@[simp] theorem acknowledge_busy (s : State) (x : Word) : (s.acknowledge x).busy = s.busy := rfl
@[simp] theorem acknowledge_agenda (s : State) (x : Word) : (s.acknowledge x).agenda = s.agenda := rfl
@[simp] theorem acknowledge_replies (s : State) (x : Word) : (s.acknowledge x).replies = s.replies := rfl
@[simp] theorem acknowledge_busErrors (s : State) (x : Word) : (s.acknowledge x).busErrors = s.busErrors := rfl
@[simp] theorem acknowledge_draws (s : State) (x : Word) : (s.acknowledge x).draws = s.draws := rfl

@[simp] theorem dropWrite_cfg (s : State) : s.dropWrite.cfg = s.cfg := rfl
@[simp] theorem dropWrite_reg (s : State) (r : Reg) : s.dropWrite.reg r = s.reg r := rfl
@[simp] theorem dropWrite_v (s : State) : s.dropWrite.v = s.v := rfl
@[simp] theorem dropWrite_scalar (s : State) : s.dropWrite.scalar = s.scalar := rfl
@[simp] theorem dropWrite_ctrl (s : State) : s.dropWrite.ctrl = s.ctrl := rfl
@[simp] theorem dropWrite_done (s : State) : s.dropWrite.status.done = s.status.done := rfl
@[simp] theorem dropWrite_err (s : State) : s.dropWrite.status.err = s.status.err := rfl
@[simp] theorem dropWrite_errcode (s : State) : s.dropWrite.status.errcode = s.status.errcode := rfl
@[simp] theorem dropWrite_inflight (s : State) : s.dropWrite.inflight = s.inflight := rfl
@[simp] theorem dropWrite_busy (s : State) : s.dropWrite.busy = s.busy := rfl
@[simp] theorem dropWrite_agenda (s : State) : s.dropWrite.agenda = s.agenda := rfl
@[simp] theorem dropWrite_replies (s : State) : s.dropWrite.replies = s.replies := rfl
@[simp] theorem dropWrite_busErrors (s : State) : s.dropWrite.busErrors = s.busErrors := rfl
@[simp] theorem dropWrite_draws (s : State) : s.dropWrite.draws = s.draws := rfl

/-! ### Fields after a read and after a bus error -/

@[simp] theorem hostRead_cfg (s : State) (off : Nat) : (s.hostRead off).cfg = s.cfg := rfl
@[simp] theorem hostRead_reg (s : State) (off : Nat) (r : Reg) : (s.hostRead off).reg r = s.reg r := rfl
@[simp] theorem hostRead_v (s : State) (off : Nat) : (s.hostRead off).v = s.v := rfl
@[simp] theorem hostRead_scalar (s : State) (off : Nat) : (s.hostRead off).scalar = s.scalar := rfl
@[simp] theorem hostRead_ctrl (s : State) (off : Nat) : (s.hostRead off).ctrl = s.ctrl := rfl
@[simp] theorem hostRead_status (s : State) (off : Nat) : (s.hostRead off).status = s.status := rfl
@[simp] theorem hostRead_inflight (s : State) (off : Nat) : (s.hostRead off).inflight = s.inflight := rfl
@[simp] theorem hostRead_busy (s : State) (off : Nat) : (s.hostRead off).busy = s.busy := rfl
@[simp] theorem hostRead_agenda (s : State) (off : Nat) : (s.hostRead off).agenda = s.agenda := rfl
@[simp] theorem hostRead_busErrors (s : State) (off : Nat) : (s.hostRead off).busErrors = s.busErrors := rfl

@[simp] theorem busError_cfg (s : State) (off width : Nat) : (s.busError off width).cfg = s.cfg := rfl
@[simp] theorem busError_reg (s : State) (off width : Nat) (r : Reg) : (s.busError off width).reg r = s.reg r := rfl
@[simp] theorem busError_v (s : State) (off width : Nat) : (s.busError off width).v = s.v := rfl
@[simp] theorem busError_scalar (s : State) (off width : Nat) : (s.busError off width).scalar = s.scalar := rfl
@[simp] theorem busError_ctrl (s : State) (off width : Nat) : (s.busError off width).ctrl = s.ctrl := rfl
@[simp] theorem busError_status (s : State) (off width : Nat) : (s.busError off width).status = s.status := rfl
@[simp] theorem busError_inflight (s : State) (off width : Nat) : (s.busError off width).inflight = s.inflight := rfl
@[simp] theorem busError_agenda (s : State) (off width : Nat) : (s.busError off width).agenda = s.agenda := rfl

end Sys2Proof.Machine
end

