-- ==== Sys2Proof/Laws/Complete.lean ====
section
/-! SUPPORT. What the shared operations of the commands can do: completion, the staging checks, and the staged register
writes. -/

namespace Sys2Proof.Machine

@[simp] theorem applyWrites_nil (v : Vector Nat 16) : applyWrites v [] = v := rfl

@[simp] theorem applyWrites_cons (v : Vector Nat 16) (r : Reg) (x : Nat) (ws : List (Reg × Nat)) :
    applyWrites v ((r, x) :: ws) = applyWrites (v.set r.val x) ws := rfl

/-- A register that no staged write names keeps its value. -/
theorem applyWrites_other (ws : List (Reg × Nat)) (v : Vector Nat 16) (q : Reg) (h : ∀ p ∈ ws, p.1 ≠ q) :
    (applyWrites v ws)[q.val] = v[q.val] := by
  induction ws generalizing v with
  | nil => rfl
  | cons p ws ih =>
    obtain ⟨r, x⟩ := p
    have hr : r.val ≠ q.val := fun e => h (r, x) (by simp) (Fin.ext e)
    rw [applyWrites_cons, ih _ fun p hp => h p (by simp [hp])]
    simp [hr]

@[simp] theorem complete_ok (s : State) (w : Staged) : s.complete (.ok w) = s.completeOk w := rfl

@[simp] theorem complete_error (s : State) (e : CommandError) : s.complete (.error e) = s.completeError e := rfl

/-- Completion gives a next state, and it is one of the two completions of R39. -/
theorem finish_cases {s t : State} {r : Except CommandError Staged} (h : s.finish r = .next t) :
    (∃ w, r = .ok w ∧ t = s.completeOk w) ∨ (∃ e, r = .error e ∧ t = s.completeError e) := by
  cases r with
  | ok w => left; exact ⟨w, rfl, by simpa [State.finish] using h.symm⟩
  | error e => right; exact ⟨e, rfl, by simpa [State.finish] using h.symm⟩

/-- A command that stages register writes only, without error, in the terms of the claims: no write. -/
theorem completeOk_nothing (s : State) : s.completeOk .nothing = s.finished := rfl

/-- One staged register write. -/
theorem completeOk_reg (s : State) (d : Reg) (x : Nat) :
    s.completeOk (.regs [(d, x)]) = (s.setReg d x).finished := rfl

/-- Two staged register writes. -/
theorem completeOk_two (s : State) (d e : Reg) (x y : Nat) :
    s.completeOk (.regs [(d, x), (e, y)]) = ((s.setReg d x).setReg e y).finished := rfl

theorem stageIfFits_cases (s : State) (d : Reg) (x : Nat) :
    (nlimbs x ≤ s.cfg.maxLimbs ∧ stageIfFits s d x = .ok (.regs [(d, x)])) ∨
    (s.cfg.maxLimbs < nlimbs x ∧ stageIfFits s d x = .error .capacity) := by
  by_cases h : nlimbs x ≤ s.cfg.maxLimbs
  · exact .inl ⟨h, by simp [stageIfFits, fits, h]⟩
  · exact .inr ⟨by omega, by simp [stageIfFits, fits, h]⟩

@[simp] theorem stageIfNonzero_zero (w : Staged) : stageIfNonzero 0 w = .error .divisionByZero := rfl

theorem stageIfNonzero_pos {m : Nat} (w : Staged) (h : m ≠ 0) : stageIfNonzero m w = .ok w := by
  simp [stageIfNonzero, h]

@[simp] theorem stageIfDistinct_true (r : Except CommandError Staged) : stageIfDistinct true r = r := rfl

@[simp] theorem stageIfDistinct_false (r : Except CommandError Staged) :
    stageIfDistinct false r = .error .illegalCommand := rfl

/-- An access that BUSY gates is dropped while busy. -/
theorem unlessBusy_busy {s : State} (t : State) (h : s.busy = true) : s.unlessBusy t = s.dropWrite := by
  simp [State.unlessBusy, h]

/-- An access that BUSY gates is performed when idle. -/
theorem unlessBusy_idle {s : State} (t : State) (h : s.busy = false) : s.unlessBusy t = t := by
  simp [State.unlessBusy, h]

end Sys2Proof.Machine
end

