-- ==== Sys2Proof/Laws/Decode.lean ====
section
/-! SUPPORT. The arithmetic of the command word: the packed word fits 32 bits and is what `encode` holds, and the rows
of the opcode map are found by their codes. -/

namespace Sys2Proof

theorem Opcode.code_lt (op : Opcode) : op.code < 2 ^ 8 := by cases op <;> decide

theorem opcodeOf_code (op : Opcode) : opcodeOf op.code = some op := by cases op <;> decide

/-- A row found for an OPC value has that value as its code. -/
theorem code_of_opcodeOf {n : Nat} {op : Opcode} (h : opcodeOf n = some op) : op.code = n := by
  have := List.find?_some h
  simpa using this

theorem packWord_lt (op : Opcode) (f : Fields) : packWord op f < 2 ^ 32 := by
  have h := op.code_lt
  have hd := f.d.isLt; have he := f.e.isLt; have ha := f.a.isLt; have hb := f.b.isLt; have hm := f.m.isLt
  unfold packWord; omega

theorem encode_toNat (i : Instr) : (encode i).toNat = packWord i.opcode i.fields := by
  have := packWord_lt i.opcode i.fields
  simp only [encode, BitVec.toNat_ofNat]
  exact Nat.mod_eq_of_lt this

theorem commandValue_toNat (i : Instr) : (commandValue i).toNat = packWord i.opcode i.fields := by
  have := packWord_lt i.opcode i.fields
  rw [commandValue, BitVec.toNat_setWidth, encode_toNat]
  exact Nat.mod_eq_of_lt (by omega)

theorem regField_val (v lo : Nat) : (regField v lo).val = v / 2 ^ lo % 16 := by
  simp [regField, bits, Fin.ofNat]

/-- The OPC field of a packed word is the row's code. -/
theorem bits_opc_packWord (op : Opcode) (f : Fields) : bits (packWord op f) 31 24 = op.code := by
  have h := op.code_lt
  have hd := f.d.isLt; have he := f.e.isLt; have ha := f.a.isLt; have hb := f.b.isLt; have hm := f.m.isLt
  unfold bits packWord; omega

/-- Every field of a packed word comes back, and Z is zero. -/
theorem fieldsOf_packWord (op : Opcode) (f : Fields) : fieldsOf (packWord op f) = { f with z := 0 } := by
  have h := op.code_lt
  have hd := f.d.isLt; have he := f.e.isLt; have ha := f.a.isLt; have hb := f.b.isLt; have hm := f.m.isLt
  simp only [fieldsOf, Fields.mk.injEq]
  refine ⟨?_, ?_, ?_, ?_, ?_, ?_⟩ <;> apply Fin.ext <;> rw [regField_val] <;> unfold packWord
  all_goals omega

end Sys2Proof
end

