-- ==== Sys2Proof/Laws/HostAccess.lean ====
section
/-! SUPPORT. The address map at the offsets of each register, and what a host access can do. -/

namespace Sys2Proof.Machine

@[simp] theorem targetOf_id : targetOf 0x0000 = .id := rfl
@[simp] theorem targetOf_param : targetOf 0x0008 = .param := rfl
@[simp] theorem targetOf_ctrl : targetOf 0x0010 = .ctrl := rfl
@[simp] theorem targetOf_status : targetOf 0x0018 = .status := rfl
@[simp] theorem targetOf_cmd : targetOf 0x0020 = .cmd := rfl
@[simp] theorem targetOf_scalar : targetOf 0x0028 = .scalar := rfl

/-- The LEN block of the map. -/
theorem targetOf_lenRange {off : Nat} (h : 0x100 ≤ off ∧ off < 0x180) :
    targetOf off = .len (Fin.ofNat 16 ((off - 0x100) / 8)) := by
  unfold targetOf; split_ifs <;> first | rfl | omega

/-- The limb windows of the map. -/
theorem targetOf_limbRange {off : Nat} (h : 0x1000 ≤ off ∧ off < 0x11000) :
    targetOf off = .limb (Fin.ofNat 16 ((off - 0x1000) / 0x1000)) ((off - 0x1000) % 0x1000 / 8) := by
  unfold targetOf; split_ifs <;> first | rfl | omega

/-- A register number computed from an offset is the register the offset names. -/
theorem ofNat_eq_reg {n : Nat} (r : Reg) (h : n = r.val) : Fin.ofNat 16 n = r := by
  subst h; exact Fin.ext (Nat.mod_eq_of_lt r.isLt)

/-- The LEN registers stand at 0x100 + 8·r. -/
theorem targetOf_lenOffset (r : Reg) : targetOf (0x0100 + 8 * r.val) = .len r := by
  rw [targetOf_lenRange (by omega), ofNat_eq_reg r (by omega)]

/-- The limb windows stand at 0x1000 + 0x1000·r + 8·i. -/
theorem targetOf_limbOffset (r : Reg) {i : Nat} (hi : i < 512) :
    targetOf (0x1000 + 0x1000 * r.val + 8 * i) = .limb r i := by
  rw [targetOf_limbRange (by omega), ofNat_eq_reg r (by omega)]
  congr 1
  omega

/-- Only offset 0x10 is CTRL. -/
theorem targetOf_eq_ctrl_iff (off : Nat) : targetOf off = .ctrl ↔ off = 0x0010 := by
  constructor
  · intro h
    unfold targetOf at h
    repeat' split at h
    all_goals first | assumption | cases h
  · rintro rfl; rfl

/-- Only offset 0x18 is STATUS. -/
theorem targetOf_eq_status_iff (off : Nat) : targetOf off = .status ↔ off = 0x0018 := by
  constructor
  · intro h
    unfold targetOf at h
    repeat' split at h
    all_goals first | assumption | cases h
  · rintro rfl; rfl

/-- A CTRL write with the soft-reset bit. -/
theorem writeCtrl_reset {x : Word} (s : State) (h : x.getLsbD 6 = true) : s.writeCtrl x = s.hardReset := if_pos h

/-- A CTRL write without the soft-reset bit. -/
theorem writeCtrl_store {x : Word} (s : State) (h : x.getLsbD 6 = false) :
    s.writeCtrl x = { s with ctrl := Ctrl.ofWord x } := if_neg (by rw [h]; decide)

/-- Everything a host write can do. -/
theorem hostWrite_cases (s : State) (off : Nat) (x : Word) :
    s.hostWrite off x = s ∨
    (targetOf off = .ctrl ∧ s.hostWrite off x = s.writeCtrl x) ∨
    (targetOf off = .status ∧ s.hostWrite off x = s.acknowledge x) ∨
    (targetOf off = .cmd ∧ s.hostWrite off x = s.accept x) ∨
    (targetOf off = .scalar ∧ s.hostWrite off x = s.writeScalar x) ∨
    (∃ r i, targetOf off = .limb r i ∧ i < s.cfg.maxLimbs ∧ s.hostWrite off x = s.writeLimb r i x) := by
  unfold State.hostWrite
  cases h : targetOf off with
  | limb r i =>
    by_cases hi : i < s.cfg.maxLimbs
    · simp [hi]
    · simp [hi]
  | _ => simp

/-- The addresses outside the window, on either side of it. -/
theorem inWindow_eq_false_iff (c : Config) (addr : Nat) :
    inWindow c addr = false ↔ addr < c.base ∨ c.base + 0x20000 ≤ addr := by
  rw [inWindow, Config.windowBytes, Bool.and_eq_false_iff, decide_eq_false_iff_not, decide_eq_false_iff_not]
  omega

/-- Everything a host access can do. -/
theorem performAccess_cases (a : Access) (s : State) :
    (inWindow s.cfg a.addr = false ∧ performAccess a s = .fault (.outsideWindow a.addr)) ∨
    (inWindow s.cfg a.addr = true ∧ a.admitted s.cfg = false ∧
      performAccess a s = .next (s.busError (a.addr - s.cfg.base) a.width)) ∨
    (inWindow s.cfg a.addr = true ∧ a.admitted s.cfg = true ∧ a.kind = .read ∧
      performAccess a s = .next (s.hostRead (a.addr - s.cfg.base))) ∨
    (∃ x, inWindow s.cfg a.addr = true ∧ a.admitted s.cfg = true ∧ a.kind = .write x ∧
      performAccess a s = .next (s.hostWrite (a.addr - s.cfg.base) x)) := by
  unfold performAccess
  cases hw : inWindow s.cfg a.addr with
  | false => simp
  | true =>
    cases ha : a.admitted s.cfg with
    | false => simp
    | true => cases hk : a.kind <;> simp

end Sys2Proof.Machine
end

