-- ==== Sys2Proof/Laws/PerInstr.lean ====
section
/-! SUPPORT. One lemma per command of the family `WordLayout`: the command's word is R101's sum of its fields, and its
Z field is zero (30_encoding.md R101, R108). -/

namespace Sys2Proof.Laws.WordLayout

/-- The word of `i` is the sum of R101, its lowest four bits are zero, and its OPC field is the row's code. -/
def Statement (i : Instr) : Prop :=
  (encode i).toNat = packWord i.opcode i.fields ∧ (encode i).toNat % 16 = 0 ∧
    bits (encode i).toNat 31 24 = i.opcode.code

/-- The layout does not depend on the command. -/
theorem of_packWord (i : Instr) : Statement i := by
  refine ⟨encode_toNat i, ?_, ?_⟩ <;> rw [encode_toNat]
  · unfold packWord; omega
  · exact bits_opc_packWord _ _

theorem nop : Statement .nop := of_packWord _
theorem cmp (a b : Reg) : Statement (.cmp a b) := of_packWord _
theorem add (d a b : Reg) : Statement (.add d a b) := of_packWord _
theorem sub (d a b : Reg) : Statement (.sub d a b) := of_packWord _
theorem muls (d a : Reg) : Statement (.muls d a) := of_packWord _
theorem mul (d a b : Reg) : Statement (.mul d a b) := of_packWord _
theorem div (q r a b : Reg) : Statement (.div q r a b) := of_packWord _
theorem mod (d a m : Reg) : Statement (.mod d a m) := of_packWord _
theorem modpow (d base exp m : Reg) : Statement (.modpow d base exp m) := of_packWord _
theorem modmul (d a b m : Reg) : Statement (.modmul d a b m) := of_packWord _
theorem gcd (d a b : Reg) : Statement (.gcd d a b) := of_packWord _
theorem egcd (g x y a b : Reg) : Statement (.egcd g x y a b) := of_packWord _
theorem modinv (d a m : Reg) : Statement (.modinv d a m) := of_packWord _
theorem clr (d : Reg) : Statement (.clr d) := of_packWord _
theorem mov (d a : Reg) : Statement (.mov d a) := of_packWord _
theorem lds (d : Reg) : Statement (.lds d) := of_packWord _

end Sys2Proof.Laws.WordLayout
end

