-- ==== Sys2Proof/Laws/Step.lean ====
section
/-! SUPPORT. Everything a turn of the CORE and a step can do, which later proofs cite instead of unfolding `step`. -/

namespace Sys2Proof.Machine

@[simp] theorem busByte_toNat (w : Word) (k : Nat) : (busByte w k).toNat = w.toNat / 2 ^ (8 * k) % 256 := by
  simp [busByte, BitVec.extractLsb'_toNat, Nat.shiftRight_eq_div_pow]

/-- The little-endian bytes of a bus word give the word back (20_memory.md R75). -/
theorem wordOfBytes_bytesOfWord (w : Word) : wordOfBytes (bytesOfWord w) = w := by
  have h := w.isLt
  apply BitVec.eq_of_toNat_eq
  simp only [wordOfBytes, bytesOfWord, List.range, List.range.loop, List.map_cons, List.map_nil,
    List.foldr_cons, List.foldr_nil, busByte_toNat, BitVec.toNat_ofNat]
  omega

@[simp] theorem decodeBytes_bytesOfWord (w : Word) : decodeBytes (bytesOfWord w) = decode w := by
  have : (bytesOfWord w).length = 8 := by simp [bytesOfWord]
  simp [decodeBytes, this, wordOfBytes_bytesOfWord]

theorem fetch_some {s : State} {w : Word} (h : s.inflight = some w) : s.fetch = some (decode w) := by
  simp [State.fetch, h]

theorem fetch_none {s : State} (h : s.inflight = none) : s.fetch = none := by simp [State.fetch, h]

/-- Everything a turn of the CORE can do: wait, reject, or run the decoded command. -/
theorem coreTurn_cases (s : State) :
    (s.inflight = none ∧ coreTurn s = .next s) ∨
    (∃ w e, s.inflight = some w ∧ decode w = .error e ∧ coreTurn s = .next (s.completeError .illegalCommand)) ∨
    (∃ w i, s.inflight = some w ∧ decode w = .ok i ∧ coreTurn s = exec i s) := by
  cases h : s.inflight with
  | none => left; simp [coreTurn, fetch_none h]
  | some w =>
    right
    cases hd : decode w with
    | error e => left; exact ⟨w, e, rfl, hd, by simp [coreTurn, fetch_some h, hd, rejectCommand]⟩
    | ok i => right; exact ⟨w, i, rfl, hd, by simp [coreTurn, fetch_some h, hd]⟩

/-- Every command ends with the completion step: exec gives a next state, the completion with some result of R106. -/
theorem exec_eq_finish (i : Instr) (s : State) : ∃ r, exec i s = s.finish r := by
  cases i <;> exact ⟨_, rfl⟩

/-- A turn of the CORE never stops the machine. -/
theorem coreTurn_next (s : State) : ∃ t, coreTurn s = .next t := by
  obtain ⟨_, h⟩ | ⟨_, _, _, _, h⟩ | ⟨_, i, _, _, h⟩ := coreTurn_cases s
  · exact ⟨_, h⟩
  · exact ⟨_, h⟩
  · obtain ⟨_, hr⟩ := exec_eq_finish i s
    exact ⟨_, h.trans hr⟩

theorem step_nil {s : State} (h : s.agenda = []) : step s = coreTurn s := by simp [step, h]

theorem step_cons {s : State} {e : Event} {rest : List Event} (h : s.agenda = e :: rest) :
    step s = perform e { s with agenda := rest } := by simp [step, h]

end Sys2Proof.Machine
end

