-- ==== Sys2Proof/Tests/Slice0.lean ====
section
/-! SUPPORT. Tests whose expected results are printed in spec/95_test_vectors.md (the section or vector is named at each),
the smoke tests of WellFormed, and for every statement that has hypotheses a witness that meets them. -/

namespace Sys2Proof.Tests

open Sys2Proof Sys2Proof.Machine

/-- Reset state of a CORE with `ml` limbs, at BASE 0x40000, with the listed registers loaded. -/
def boot (ml : Nat) (ws : List (Reg × Nat)) : State :=
  { State.resetWith { maxLimbs := ml, base := 0x40000, irqLine := 3 } with
    v := applyWrites (Vector.replicate 16 0) ws }

/-- The `CMD` value `w` in flight. -/
def issued (s : State) (w : Nat) : State := { s with inflight := some (BitVec.ofNat 64 w) }

/-- The outcome is a next state that passes the check. -/
def passes (o : Host.Outcome State Fault Refusal) (p : State → Bool) : Bool :=
  match o with
  | .next t => p t
  | .fault _ => false
  | .refused _ => false

/-- A next state with the error code, DONE and ERR, idle, all registers as before. -/
def errs (o : Host.Outcome State Fault Refusal) (s : State) (e : CommandError) : Bool :=
  passes o fun t => t.status.errcode == some e && t.status.done && t.status.err && !t.busy && t.v == s.v

/-- A successful end: DONE, no error, idle. -/
def good (t : State) : Bool := t.status.done && !t.status.err && t.status.errcode == none && !t.busy

/-! ### WellFormed: an ill-formed term for each check -/

theorem test_illformed_div : (Instr.div 2 2 0 1).wellFormed = false := by decide
theorem test_illformed_egcd_gx : (Instr.egcd 2 2 4 0 1).wellFormed = false := by decide
theorem test_illformed_egcd_gy : (Instr.egcd 2 3 2 0 1).wellFormed = false := by decide
theorem test_illformed_egcd_xy : (Instr.egcd 2 3 3 0 1).wellFormed = false := by decide
theorem test_wellformed_div : (Instr.div 2 3 2 3).wellFormed = true := by decide

/-! ### Decoding: a word of each row, written out from R101 and R104 -/

theorem test_decode_nop : decodeTableWord 32 0x00000000 = some .nop := by decide
theorem test_decode_cmp : decodeTableWord 32 0x01002100 = some (.cmp 2 1) := by decide
theorem test_decode_add : decodeTableWord 32 0x02F0E100 = some (.add 15 14 1) := by decide
theorem test_decode_sub : decodeTableWord 32 0x03401200 = some (.sub 4 1 2) := by decide
theorem test_decode_muls : decodeTableWord 32 0x04103000 = some (.muls 1 3) := by decide
theorem test_decode_mul : decodeTableWord 32 0x05503400 = some (.mul 5 3 4) := by decide
theorem test_decode_div : decodeTableWord 32 0x06780600 = some (.div 7 8 0 6) := by decide
theorem test_decode_mod : decodeTableWord 32 0x07203010 = some (.mod 2 3 1) := by decide
theorem test_decode_modpow : decodeTableWord 32 0x10C0B760 = some (.modpow 12 11 7 6) := by decide
theorem test_decode_modmul : decodeTableWord 32 0x11600510 = some (.modmul 6 0 5 1) := by decide
theorem test_decode_gcd : decodeTableWord 32 0x12907500 = some (.gcd 9 7 5) := by decide
theorem test_decode_egcd : decodeTableWord 32 0x13230140 = some (.egcd 2 3 4 0 1) := by decide
theorem test_decode_modinv : decodeTableWord 32 0x14A07050 = some (.modinv 10 7 5) := by decide
theorem test_decode_clr : decodeTableWord 32 0x20500000 = some (.clr 5) := by decide
theorem test_decode_mov : decodeTableWord 32 0x21102000 = some (.mov 1 2) := by decide
theorem test_decode_lds : decodeTableWord 32 0x22B00000 = some (.lds 11) := by decide

/-- Section 2.14: rejected by name. -/
theorem test_decode_rejects :
    decode 0x0000000008000000 = .error .reservedOpcode ∧ decode 0x00000000FF000000 = .error .reservedOpcode ∧
    decode 0x0000000000000001 = .error .sbzField ∧ decode 0x0000000001100100 = .error .sbzField ∧
    decode 0x0000000020510000 = .error .sbzField ∧ decode 0x0000000102200100 = .error .highBits ∧
    decodeBytes [0, 0, 0, 0] = .error .notOneWord := by decide

/-- The masks computed from the opcode map are those R112 prints. -/
theorem test_printed_masks : printedMasks = Opcode.all.map fun op => (op, op.matchWord, op.mask) := by decide

/-- The printed masks overlap in no word: two rows differ in their OPC bits (R112). -/
theorem test_rows_disjoint :
    printedMasks.Pairwise fun p q => p.2.1 &&& 0xFF000000 ≠ q.2.1 &&& 0xFF000000 := by decide

/-! ### Commands, one step each -/

/-- 2.13 NOP. -/
theorem test_nop : passes (step (issued (boot 4 [(0, 5)]) 0x00000000)) (fun t => good t && t.reg 0 == 5) = true := by
  decide
/-- 2.1: equal limb counts, limb 0 decides. -/
theorem test_cmp_less :
    passes (step (issued (boot 4 [(0, 2^128 + 1), (1, 2^128 + 2)]) 0x01000100))
      (fun t => good t && t.status.cr == .less) = true := by decide +kernel
/-- 2.1: the limb count decides. -/
theorem test_cmp_greater :
    passes (step (issued (boot 4 [(0, 2^64), (1, 2^64 - 1)]) 0x01000100))
      (fun t => good t && t.status.cr == .greater) = true := by decide +kernel
/-- 2.2: a carry makes a new limb. -/
theorem test_add_carry :
    passes (step (issued (boot 4 [(0, 2^64 - 1), (1, 1)]) 0x02200100))
      (fun t => good t && t.reg 2 == 2^64) = true := by decide +kernel
/-- 2.2: two limbs are full. -/
theorem test_add_capacity :
    errs (step (issued (boot 2 [(0, 2^128 - 1), (1, 1)]) 0x02200100)) (boot 2 [(0, 2^128 - 1), (1, 1)])
      .capacity = true := by decide +kernel
/-- 2.3. -/
theorem test_sub_borrow :
    passes (step (issued (boot 4 [(0, 2^128), (1, 1)]) 0x03200100))
      (fun t => good t && t.reg 2 == 2^128 - 1) = true := by decide +kernel
/-- 2.3. -/
theorem test_sub_underflow :
    errs (step (issued (boot 4 [(0, 5), (1, 2^64)]) 0x03200100)) (boot 4 [(0, 5), (1, 2^64)])
      .underflow = true := by decide +kernel
/-- 2.4. -/
theorem test_muls :
    passes (step (issued { boot 4 [(0, 2^64 - 1)] with scalar := 0xFFFFFFFFFFFFFFFF } 0x04100000))
      (fun t => good t && limb (t.reg 1) 0 == 1 && limb (t.reg 1) 1 == 0xFFFFFFFFFFFFFFFE) = true := by
  decide +kernel
/-- 2.4. -/
theorem test_muls_capacity :
    errs (step (issued { boot 2 [(0, 2^128 - 1)] with scalar := 2 } 0x04100000)) (boot 2 [(0, 2^128 - 1)])
      .capacity = true := by decide +kernel
/-- 2.5: fits although the limb counts sum to 3. -/
theorem test_mul_fits :
    passes (step (issued (boot 2 [(0, 2^64), (1, 1)]) 0x05200100)) (fun t => good t && t.reg 2 == 2^64)
      = true := by decide +kernel
/-- 2.5. -/
theorem test_mul_capacity :
    errs (step (issued (boot 2 [(0, 2^64), (1, 2^64)]) 0x05200100)) (boot 2 [(0, 2^64), (1, 2^64)])
      .capacity = true := by decide +kernel
/-- 2.6: the destinations are the sources. -/
theorem test_div_over_sources :
    passes (step (issued (boot 4 [(0, 2^128), (1, 2^64 - 1)]) 0x06010100))
      (fun t => good t && t.reg 0 == 2^64 + 1 && t.reg 1 == 1) = true := by decide +kernel
/-- 2.14, R226: a destination conflict comes before the zero divisor. -/
theorem test_div_conflict :
    errs (step (issued (boot 4 []) 0x06220000)) (boot 4 []) .illegalCommand = true := by decide
/-- 2.7. -/
theorem test_mod :
    passes (step (issued (boot 4 [(0, 3^100), (1, 2^64 + 7)]) 0x07200010))
      (fun t => good t && t.reg 2 == 0x0410A30A97E05956) = true := by decide +kernel
/-- 2.7. -/
theorem test_mod_zero :
    errs (step (issued (boot 4 [(0, 12345)]) 0x07200010)) (boot 4 [(0, 12345)]) .divisionByZero = true := by decide
/-- 2.8. -/
theorem test_modpow :
    passes (step (issued (boot 4 [(0, 3), (1, 2^61 - 2), (2, 2^61 - 1)]) 0x10300120))
      (fun t => good t && t.reg 3 == 1) = true := by decide +kernel
/-- 2.8: modulus 1, even for exponent 0. -/
theorem test_modpow_one :
    passes (step (issued (boot 4 [(0, 7), (3, 9), (2, 1)]) 0x10300120)) (fun t => good t && t.reg 3 == 0)
      = true := by decide +kernel
/-- 2.9: the 4-limb product never raises CAPACITY. -/
theorem test_modmul :
    passes (step (issued (boot 2 [(0, 2^128 - 1), (1, 2^128 - 1), (2, 2^128 - 3)]) 0x11300120))
      (fun t => good t && t.reg 3 == 4) = true := by decide +kernel
/-- 2.10. -/
theorem test_gcd :
    passes (step (issued (boot 4 [(0, 3 * 2^64), (1, 5 * 2^65)]) 0x12200100))
      (fun t => good t && t.reg 2 == 2^64) = true := by decide +kernel
/-- 2.11: the destinations are the sources. -/
theorem test_egcd_over_sources :
    passes (step (issued (boot 4 [(0, 240), (1, 46)]) 0x13010140))
      (fun t => good t && t.reg 0 == 2 && t.reg 1 == 9 && t.reg 4 == 47 && t.status.xneg && !t.status.yneg)
      = true := by decide +kernel
/-- 2.11: (3120, 17) gives (1, 2, −367). -/
theorem test_egcd_negative_y :
    passes (step (issued (boot 4 [(0, 3120), (1, 17)]) 0x13230140))
      (fun t => good t && t.reg 2 == 1 && t.reg 3 == 2 && t.reg 4 == 367 && !t.status.xneg && t.status.yneg)
      = true := by decide +kernel
/-- 2.12: a negative x is made non-negative. -/
theorem test_modinv :
    passes (step (issued (boot 4 [(0, 17), (1, 3120)]) 0x14300010))
      (fun t => good t && t.reg 3 == 2753 && !t.status.xneg) = true := by decide +kernel
/-- 2.12: gcd = 1 and x mod 0. -/
theorem test_modinv_zero :
    errs (step (issued (boot 4 [(0, 1)]) 0x14300010)) (boot 4 [(0, 1)]) .divisionByZero = true := by decide
/-- 2.13. -/
theorem test_clr :
    passes (step (issued (boot 4 [(5, 2^100)]) 0x20500000)) (fun t => good t && t.reg 5 == 0) = true := by
  decide +kernel
/-- 2.13. -/
theorem test_mov :
    passes (step (issued (boot 4 [(0, 2^64)]) 0x21100000)) (fun t => good t && t.reg 1 == 2^64) = true := by
  decide +kernel
/-- 2.13. -/
theorem test_lds :
    passes (step (issued { boot 4 [] with scalar := 2 } 0x22000000)) (fun t => good t && t.reg 0 == 2) = true := by
  decide +kernel

/-! ### Host interface vectors (section 2.15), and R121's example -/

theorem test_h1_id : State.reset.readValue 0x0000 = 0x0001000745504331 := by decide
theorem test_h2_param : State.reset.readValue 0x0008 = 0x0000000040100040 := by decide
theorem test_h3_ctrl_status : State.reset.readValue 0x0010 = 0x2 ∧ State.reset.readValue 0x0018 = 0x180 := by decide
theorem test_h4_h5_expwin :
    (State.reset.hostWrite 0x0010 0x0).readValue 0x0010 = 0x2 ∧
    (State.reset.hostWrite 0x0010 0xE).readValue 0x0010 = 0x2 := by decide
theorem test_h6_ctrl : (State.reset.hostWrite 0x0010 0x39).readValue 0x0010 = 0x39 := by decide
theorem test_h7_limb :
    (State.reset.hostWrite 0x1008 0x5).reg 0 = 5 * 2^64 ∧
    (State.reset.hostWrite 0x1008 0x5).readValue 0x0100 = 2 := by decide +kernel
theorem test_h9_limb_above : State.reset.hostWrite 0x1200 0x7 = State.reset := by decide
theorem test_h12_bus_error :
    passes (performAccess { addr := 0x40014, width := 64, kind := .read } (boot 4 []))
      (fun t => t.busErrors == [{ off := 0x14, width := 64 }]) = true := by decide
/-- H13: STATUS 0x8E after a DIV by zero with CR = LESS, ERR cleared. -/
theorem test_h13_w1c :
    (({ State.reset with
        status := { Status.afterReset with
          done := true, err := true, errcode := some .divisionByZero, cr := .less } }).hostWrite 0x0018 0x4).readValue
      0x0018 = 0x82 := by decide
/-- R121: `DIV v2, v3, v0, v1` encodes as 0x06230100. -/
theorem test_assemble_div :
    (assembleLine "div v2, v3, v0, v1 ; quotient".toList).map encode = some 0x06230100 := by decide +kernel
/-- R122: SQR is MUL with one source twice. -/
theorem test_assemble_sqr : assembleLine "SQR v2, v10".toList = some (.mul 2 10 10) := by decide +kernel

/-! ### Witnesses: states and operands that meet the hypotheses of each statement -/

/-- A host access of the window of `boot`. -/
def at40000 (off : Nat) (k : AccessKind) : Event := .access { addr := 0x40000 + off, width := 64, kind := k }

theorem witness_ResetGivesEveryRegisterItsValue :
    (0x40 : Word).getLsbD 6 = true ∧ State.reset.hostWrite 0x0010 0x40 = State.reset.hardReset := by decide

theorem witness_SoftResetIsHardReset :
    (0x40 : Word).getLsbD 6 = true ∧
    ({ boot 4 [] with agenda := [at40000 0x10 (.write 0x40)] }).agenda =
      .access { addr := (boot 4 []).cfg.base + 0x0010, width := 64, kind := .write 0x40 } :: [] := by decide

theorem witness_IdAndParamReadTheirConstants : (boot 512 []).cfg.wf = true ∧ (boot 2 []).cfg.wf = true := by decide

theorem witness_CtrlWriteStoresLegalFields : (0x39 : Word).getLsbD 6 = false := by decide

theorem witness_AddressMapLocatesEveryRegister :
    (targetOf 0x1000 = .limb 0 0) ∧ (targetOf 0x10FF8 = .limb 15 511) ∧ (targetOf 0x0100 = .len 0) ∧
    (targetOf 0x0178 = .len 15) ∧ (targetOf 0x017F = .len 15) ∧ 0x1000 ≤ 0x10FFF ∧ 0x10FFF < 0x11000 := by decide

/-- Boundary offsets of the four ranges; a limb at MAXLIMBS = 2. -/
theorem witness_ReservedOffsetsReadZeroIgnoreWrites :
    (targetOf 0x00030 = .reserved ∧ targetOf 0x000F8 = .reserved ∧ targetOf 0x00180 = .reserved ∧
      targetOf 0x00FF8 = .reserved ∧ targetOf 0x11000 = .reserved ∧ targetOf 0x1FFF8 = .reserved) ∧
    (boot 2 []).cfg.maxLimbs ≤ (0x01010 - 0x1000) % 0x1000 / 8 := by decide

theorem witness_BadAccessGetsBusErrorForGood :
    inWindow (boot 4 []).cfg 0x40014 = true ∧ (0x40014 - (boot 4 []).cfg.base) % 8 ≠ 0 ∧ (32 : Nat) ≠ 64 := by decide

theorem witness_BadAccessGetsBusErrorForGood_step :
    ∃ t, step { boot 4 [] with agenda := [.access { addr := 0x40018, width := 32, kind := .read }] } = .next t :=
  ⟨_, rfl⟩

theorem witness_AdmittedAccessIsPerformed :
    0x1FFF8 < 0x20000 ∧ 0x1FFF8 % 8 = 0 ∧
    ({ boot 4 [] with agenda := [at40000 0x1FFF8 .read] }).agenda =
      .access { addr := (boot 4 []).cfg.base + 0x1FFF8, width := 64, kind := .read } :: [] := by decide

/-- The addresses on either side of the window stop the model. -/
theorem witness_StepStopsExactlyOutsideTheWindow :
    0x3FFF8 < (boot 4 []).cfg.base ∧ (boot 4 []).cfg.base + 0x20000 ≤ 0x60000 ∧
    inWindow (boot 4 []).cfg 0x3FFF8 = false ∧ inWindow (boot 4 []).cfg 0x60000 = false ∧
    inWindow (boot 4 []).cfg 0x40000 = true ∧ inWindow (boot 4 []).cfg 0x5FFFF = true := by decide

/-- A misaligned access just above the window is the next event of a state, and that state has no next one. -/
theorem witness_StepStopsExactlyOutsideTheWindow_step :
    ({ boot 4 [] with agenda := [at40000 0x20001 .read] }).agenda =
      .access { addr := 0x60001, width := 64, kind := .read } :: [] ∧
    ∀ t, step { boot 4 [] with agenda := [at40000 0x20001 .read] } ≠ .next t :=
  ⟨rfl, fun _ h => nomatch h⟩

theorem witness_LimbWriteReplacesOneLimb :
    511 < (boot 512 []).cfg.maxLimbs ∧ 511 < 512 ∧ (boot 512 []).busy = false := by decide

theorem witness_LimbReadReturnsTheLimb :
    3 < (boot 4 [(0, 2^64)]).cfg.maxLimbs ∧ (boot 4 [(0, 2^64)]).busy = false ∧
    nlimbs ((boot 4 [(0, 2^64)]).reg 0) ≤ 3 := by decide +kernel

theorem witness_WritesWhileBusyAreDropped :
    (issued (boot 4 []) 0x22000000).busy = true ∧ 3 < (issued (boot 4 []) 0x22000000).cfg.maxLimbs ∧
    (0x5 : Word).getLsbD 6 = false ∧ targetOf 0x0000 = .id ∧ targetOf 0x0008 = .param ∧
    targetOf 0x0100 = .len 0 ∧ targetOf 0x0030 = .reserved := by decide

theorem witness_ReadsWhileBusyAreFreeDraws :
    (issued (boot 4 []) 0).busy = true ∧ 3 < (issued (boot 4 []) 0).cfg.maxLimbs ∧ (boot 4 []).busy = false := by decide

theorem witness_AcceptLatchesTheCommand :
    (boot 4 []).busy = false ∧ (issued (boot 4 []) 0x22000000).busy = true := by decide

theorem witness_ScalarReadsAndWritesAllBits :
    (boot 4 []).busy = false ∧ (issued (boot 4 []) 0x22000000).busy = true := by decide

/-- A loaded state, its registers full, meets the invariant. -/
theorem boot_inv : (boot 2 [(0, 2^128 - 1), (1, 7)]).Inv :=
  ⟨by decide, by decide +kernel, by decide, by decide, by decide⟩

theorem witness_LenReadsTheLimbCount :
    (boot 2 [(0, 2^128 - 1), (1, 7)]).Inv ∧ (boot 2 [(0, 2^128 - 1), (1, 7)]).busy = false := ⟨boot_inv, rfl⟩

theorem witness_LimbCountIsTheLeast :
    1 ≤ 2^64 ∧ 2^64 < 2 ^ (64 * 2) ∧ fits 2 (2^64) = true ∧ fits 1 (2^64) = false := by decide

theorem witness_IrqIsEnableAndDone :
    (0x2 : Word).getLsbD 1 = true ∧ (boot 4 []).busy = false ∧ (0x1 : Word).getLsbD 6 = false ∧
    passes (exec .nop (boot 4 [])) good = true := by decide

theorem witness_DecodedValueIsItsEncoding : decode 0x06230100 = .ok (.div 2 3 0 1) := by decide

theorem witness_DecoderFollowsThePrintedMasks :
    (0x06230100 : Word).toNat < 2 ^ 32 ∧ (Opcode.div, 0x06000000, 0xFF0000FF) ∈ printedMasks ∧
    0x06230100 &&& 0xFF0000FF = 0x06000000 := by decide

/-- One value for each way to be illegal, and a legal one: high bits, no row, DIV with D = E, EGCD with E = M. -/
theorem witness_IllegalCommandExactlyForIllegalValues :
    (issued (boot 4 []) 0x06220100).inflight = some 0x06220100 ∧ (issued (boot 4 []) 0x06220100).agenda = [] ∧
    bits 0x102200100 63 32 ≠ 0 ∧ (∀ row ∈ printedMasks, 0x08000000 &&& row.2.2 ≠ row.2.1) ∧
    (bits 0x06220100 31 24 = 0x06 ∧ bits 0x06220100 23 20 = bits 0x06220100 19 16) ∧
    (bits 0x13230130 31 24 = 0x13 ∧ bits 0x13230130 19 16 = bits 0x13230130 7 4) ∧
    decode 0x02200100 = .ok (.add 2 0 1) := by decide

theorem witness_CoreTurnRunsTheDecodedCommand :
    (issued (boot 4 []) 0x22000000).inflight = some 0x22000000 ∧
    decodeBytes (bytesOfWord 0x22000000) = .ok (.lds 0) ∧ (issued (boot 4 []) 0x22000000).agenda = [] ∧
    (boot 4 []).inflight = none := by decide

/-- MAXLIMBS = 2: a sum that fits exactly and one that does not. -/
theorem witness_AddWritesTheSumOrCapacity :
    nlimbs ((boot 2 [(0, 2^128 - 2), (1, 1)]).reg 0 + (boot 2 [(0, 2^128 - 2), (1, 1)]).reg 1) ≤ 2 ∧
    2 < nlimbs ((boot 2 [(0, 2^128 - 1), (1, 1)]).reg 0 + (boot 2 [(0, 2^128 - 1), (1, 1)]).reg 1) ∧
    nlimbs ((boot 2 [(0, 2^128 - 1), (1, 1)]).reg 0) ≤ 2 ∧ nlimbs ((boot 2 [(0, 2^128 - 1), (1, 1)]).reg 1) ≤ 2 ∧
    (rippleLoop (2^128 - 1) 1 2).2 = 1 := by
  decide +kernel

theorem witness_SubWritesTheDifferenceOrUnderflow :
    (boot 4 [(0, 7), (1, 7)]).reg 1 ≤ (boot 4 [(0, 7), (1, 7)]).reg 0 ∧
    (boot 4 [(0, 6), (1, 7)]).reg 0 < (boot 4 [(0, 6), (1, 7)]).reg 1 := by decide

theorem witness_MultiplyWritesTheProductOrCapacity :
    nlimbs (2^64 * (2^64 - 1)) ≤ 2 ∧ 2 < nlimbs (2^64 * 2^64) ∧
    2 < nlimbs ((2^128 - 1) * (2 : Word).toNat) := by decide +kernel

theorem witness_DivWritesQuotientAndRemainder :
    (2 : Reg) ≠ 3 ∧
    ((boot 4 [(0, 7), (1, 7)]).reg 1 ≠ 0 ∧ (boot 4 [(0, 7), (1, 7)]).reg 1 ≤ (boot 4 [(0, 7), (1, 7)]).reg 0) ∧
    (boot 4 [(0, 6), (1, 7)]).reg 0 < (boot 4 [(0, 6), (1, 7)]).reg 1 ∧ (boot 4 [(0, 6)]).reg 1 = 0 := by decide

theorem witness_ModWritesTheRemainder :
    (boot 4 [(0, 6), (1, 7)]).reg 1 ≠ 0 ∧ (boot 4 [(0, 6)]).reg 1 = 0 ∧ (4 : Reg) ≠ 2 ∧
    passes (exec (.div 4 2 0 1) (boot 4 [(0, 6), (1, 7)])) good = true ∧
    passes (exec (.mod 2 0 1) (boot 4 [(0, 6), (1, 7)])) good = true := by decide

theorem witness_ModpowWritesThePower :
    2 ≤ (boot 4 [(2, 2)]).reg 2 ∧ (boot 4 [(2, 1)]).reg 2 = 1 ∧ (boot 4 []).reg 2 = 0 := by decide

theorem witness_ModmulWritesTheProductsRemainder :
    (boot 4 [(2, 1)]).reg 2 ≠ 0 ∧ (boot 4 []).reg 2 = 0 := by decide

theorem witness_EgcdWritesMagnitudesAndSigns :
    (2 : Reg) ≠ 3 ∧ (2 : Reg) ≠ 4 ∧ (3 : Reg) ≠ 4 := by decide

theorem witness_EuclidRecursions : 1 ≤ 46 ∧ egcd 240 46 = (2, -9, 47) := by decide

theorem witness_EgcdCoefficientsAreBounded : nlimbs 240 ≤ 1 ∧ nlimbs 46 ≤ 1 := by decide

theorem witness_EgcdSatisfiesBezout :
    (2 : Reg) ≠ 3 ∧ (2 : Reg) ≠ 4 ∧ (3 : Reg) ≠ 4 ∧
    passes (exec (.egcd 2 3 4 0 1) (boot 4 [(0, 0), (1, 5)])) (fun t => t.reg 3 == 0 && !t.status.xneg) = true ∧
    passes (exec (.egcd 2 3 4 0 1) (boot 4 [(0, 5), (1, 0)])) (fun t => t.reg 4 == 0 && !t.status.yneg) = true := by
  decide

theorem witness_ModinvWritesTheInverse :
    Nat.gcd 6 9 ≠ 1 ∧ ((boot 4 [(0, 1)]).reg 0 = 1 ∧ (boot 4 [(0, 1)]).reg 1 = 0) ∧
    (Nat.gcd ((boot 4 [(0, 3), (1, 2)]).reg 0) ((boot 4 [(0, 3), (1, 2)]).reg 1) = 1 ∧
      2 ≤ (boot 4 [(0, 3), (1, 2)]).reg 1) ∧
    passes (exec (.modinv 3 0 1) (boot 4 [(0, 3), (1, 2)])) good = true := by decide

theorem witness_ArithmeticLaws :
    (2 : Reg) ≠ 1 ∧ nlimbs ((boot 2 [(0, 2^64), (1, 5)]).reg 0 + (boot 2 [(0, 2^64), (1, 5)]).reg 1) ≤ 2 ∧
    (2 : Reg) ≠ 3 ∧ (boot 2 [(0, 2^64), (1, 5)]).reg 1 ≠ 0 := by decide +kernel

theorem witness_BorrowSubtractorIsExact : 2^64 ≤ 2^64 ∧ borrowSub (2^64) 1 = 2^64 - 1 := by decide +kernel

theorem witness_SchoolbookMultiplierIsExact : 1 < nlimbs (2^64) ∧ 0 < nlimbs 0 := by decide

theorem witness_LongDivisionIsExact :
    1 ≤ 1 ∧ 2^64 - 1 < 2^64 ∧ (2^64 - 1) * 1 ≤ 2^64 - 1 := by decide

/-- A zero divisor for each of the five commands, and MODINV's (1, 0). -/
theorem witness_DivisionByZeroExactly :
    (2 : Reg) ≠ 3 ∧ (boot 4 [(0, 1)]).reg 1 = 0 ∧ (boot 4 [(0, 1)]).reg 0 = 1 ∧
    errs (exec (.div 2 3 0 1) (boot 4 [(0, 1)])) (boot 4 [(0, 1)]) .divisionByZero = true ∧
    errs (exec (.modmul 2 0 0 1) (boot 4 [(0, 1)])) (boot 4 [(0, 1)]) .divisionByZero = true ∧
    errs (exec (.modpow 2 0 0 1) (boot 4 [(0, 1)])) (boot 4 [(0, 1)]) .divisionByZero = true := by decide

theorem witness_UnderflowExactly :
    errs (exec (.sub 2 0 1) (boot 4 [(1, 1)])) (boot 4 [(1, 1)]) .underflow = true := by decide

theorem witness_CapacityExactly :
    errs (exec (.add 2 0 0) (boot 2 [(0, 2^127)])) (boot 2 [(0, 2^127)]) .capacity = true := by decide +kernel

theorem witness_ErrorsArePrecise :
    passes (exec (.sub 2 0 1) (boot 4 [(1, 1)])) (fun t => t.status.err) = true ∧
    (issued (boot 4 []) 0x08000000).inflight = some 0x08000000 ∧ (issued (boot 4 []) 0x08000000).agenda = [] ∧
    passes (step (issued (boot 4 []) 0x08000000)) (fun t => t.status.err) = true := by decide

theorem witness_CommandFrame :
    ∃ t, exec (.add 2 0 1) (boot 4 [(0, 5)]) = .next t ∧ (3 : Reg) ∉ (Instr.add 2 0 1).dests ∧
      (∀ a b, Instr.add 2 0 1 ≠ .cmp a b) ∧ (∀ g x y a b, Instr.add 2 0 1 ≠ .egcd g x y a b) :=
  ⟨_, rfl, by decide, by simp, by simp⟩

theorem witness_CommandFrameInTheWindow :
    ∃ t, exec (.clr 2) (boot 4 [(0, 5)]) = .next t ∧ 0x1000 ≠ 0x0018 ∧
      (∀ r ∈ (Instr.clr 2).dests, targetOf 0x1000 ≠ .len r ∧ ∀ k, targetOf 0x1000 ≠ .limb r k) :=
  ⟨_, rfl, by decide, by
    have h : targetOf 0x1000 = .limb 0 0 := rfl
    simp [Instr.dests, h]⟩

theorem witness_CommandsDependOnRegistersOnly :
    ∃ t t', (boot 4 [(0, 5)]).v = (issued (boot 4 [(0, 5)]) 1).v ∧
      (boot 4 [(0, 5)]).scalar = (issued (boot 4 [(0, 5)]) 1).scalar ∧
      (boot 4 [(0, 5)]).cfg.maxLimbs = (issued (boot 4 [(0, 5)]) 1).cfg.maxLimbs ∧
      exec (.add 2 0 1) (boot 4 [(0, 5)]) = .next t ∧ exec (.add 2 0 1) (issued (boot 4 [(0, 5)]) 1) = .next t' :=
  ⟨_, _, rfl, rfl, rfl, rfl, rfl⟩

/-- The same for the commands that stage flags, at states that differ in the flags staged. -/
theorem witness_CommandsDependOnRegistersOnly_flags :
    ∃ t t' u u', (boot 4 [(0, 5)]).v = ((boot 4 [(0, 5)]).withCr .greater).v ∧
      exec (.cmp 1 0) (boot 4 [(0, 5)]) = .next t ∧
      exec (.cmp 1 0) ((boot 4 [(0, 5)]).withCr .greater) = .next t' ∧
      (2 : Reg) ≠ 3 ∧ (2 : Reg) ≠ 4 ∧ (3 : Reg) ≠ 4 ∧
      exec (.egcd 2 3 4 0 1) (boot 4 [(0, 5)]) = .next u ∧
      exec (.egcd 2 3 4 0 1) ((boot 4 [(0, 5)]).withSigns true true) = .next u' :=
  ⟨_, _, _, _, rfl, rfl, rfl, by decide, by decide, by decide, rfl, rfl⟩

theorem witness_EventsBeforeACompletion :
    ({ issued (boot 4 []) 0x22000000 with agenda := [at40000 0x18 (.write 2), .coreTurn] }).agenda =
      .access { addr := (boot 4 []).cfg.base + 0x0018, width := 64, kind := .write 2 } :: .coreTurn :: [] ∧
    ({ issued (boot 4 []) 0x22000000 with agenda := [.hardReset, .coreTurn] }).agenda =
      .hardReset :: .coreTurn :: [] ∧
    (0x40 : Word).getLsbD 6 = true ∧
    ({ issued (boot 4 []) 0x22000000 with agenda := [at40000 0x10 (.write 0x40), .coreTurn] }).agenda =
      .access { addr := (boot 4 []).cfg.base + 0x0010, width := 64, kind := .write 0x40 } :: .coreTurn :: [] := by
  decide

theorem witness_AcceptedCommandIsCompleted :
    (issued (boot 4 []) 0x22000000).inflight = some 0x22000000 ∧
    (∀ e ∈ [at40000 0x28 (.write 9), at40000 0x10 (.write 1), .coreTurn], e.interrupts (boot 4 []).cfg = false) := by
  decide

theorem witness_StepKeepsTheInvariant :
    ∃ t, (boot 2 [(0, 2^128 - 1), (1, 7)]).Inv ∧ step (boot 2 [(0, 2^128 - 1), (1, 7)]) = .next t :=
  ⟨_, boot_inv, rfl⟩

theorem witness_ResetMeetsTheInvariant : ({ maxLimbs := 2, base := 0x20000, irqLine := 0 } : Config).wf = true := by
  decide

end Sys2Proof.Tests
end

/-! PROOFS. Limbs, Euclid's loop and the extended-Euclid recursion (00_scope.md R13, R17). -/

namespace Sys2Proof.Machine

/-! The limb count (R13). -/

theorem limb_eq_bits (v i : Nat) : limb v i = bits v (64 * i + 63) (64 * i) := by
  have hwidth : 64 * i + 63 - 64 * i + 1 = 64 := by omega
  simp only [limb, bits, hwidth]

@[simp] theorem nlimbs_zero : nlimbs 0 = 1 := rfl

theorem lt_two_pow_nlimbs (v : Nat) : v < 2 ^ (64 * nlimbs v) :=
  (nlimbs_le_iff (nlimbs_pos v)).1 le_rfl

/-- No smaller limb count bounds `v`; zero is excluded because it is below `2 ^ 0` and still has one limb. -/
theorem nlimbs_le_of_lt_two_pow {v n : Nat} (hv : 1 ≤ v) (h : v < 2 ^ (64 * n)) : nlimbs v ≤ n := by
  have hn : n ≠ 0 := by rintro rfl; omega
  exact (nlimbs_le_iff (Nat.one_le_iff_ne_zero.2 hn)).2 h

/-- Settles O19: both directions of the limb count come from `nlimbs_le_iff`. -/
theorem limbCountIsTheLeast : Obligations.LimbCountIsTheLeast := by
  unfold Obligations.LimbCountIsTheLeast
  refine ⟨limb_eq_bits, nlimbs_zero, fun v hv => ⟨lt_two_pow_nlimbs v, ?_⟩, fun v ml hml => ?_⟩
  · exact fun n => nlimbs_le_of_lt_two_pow hv
  · exact (fits_iff ml v).trans (nlimbs_le_iff hml)

/-! Euclid's loop and the extended-Euclid recursion (R17). Both run on a bound `n` of the number of turns; any bound
that reaches the second operand gives the same result, because `a % b < b`. -/

/-- What one turn of Euclid's loop keeps. -/
theorem gcd_mod_eq_gcd (a b : Nat) : Nat.gcd b (a % b) = Nat.gcd a b := by
  rw [Nat.gcd_comm b, ← Nat.gcd_rec, Nat.gcd_comm]

/-- Enough turns of Euclid's loop reach the greatest common divisor. -/
theorem euclidLoop_eq_gcd {n a b : Nat} (h : b ≤ n) : euclidLoop n a b = Nat.gcd a b := by
  induction n generalizing a b with
  | zero =>
    obtain rfl : b = 0 := by omega
    simp [euclidLoop]
  | succ n ih =>
    by_cases hb : b = 0
    · simp [euclidLoop, hb]
    · have hlt : a % b < b := Nat.mod_lt a (by omega)
      calc euclidLoop (n + 1) a b
        _ = euclidLoop n b (a % b) := by simp [euclidLoop, hb]
        _ = Nat.gcd b (a % b) := ih (by omega)
        _ = Nat.gcd a b := gcd_mod_eq_gcd a b

theorem euclid_eq_gcd (a b : Nat) : euclid a b = Nat.gcd a b := euclidLoop_eq_gcd le_rfl

@[simp] theorem euclid_zero_right (a : Nat) : euclid a 0 = a := rfl

theorem euclid_eq_mod (a b : Nat) : euclid a b = euclid b (a % b) := by
  rw [euclid_eq_gcd, euclid_eq_gcd, gcd_mod_eq_gcd]

@[simp] theorem egcdRec_zero_right (n a : Nat) : egcdRec n a 0 = (a, 1, 0) := by
  cases n <;> simp [egcdRec]

/-- One turn of the recursion, at any depth that is left. -/
theorem egcdRec_succ {b : Nat} (n a : Nat) (hb : 1 ≤ b) :
    egcdRec (n + 1) a b = ((egcdRec n b (a % b)).1, (egcdRec n b (a % b)).2.2,
      (egcdRec n b (a % b)).2.1 - (a / b : Nat) * (egcdRec n b (a % b)).2.2) := by
  have hb0 : b ≠ 0 := by omega
  simp [egcdRec, hb0]

/-- Two depths that both reach the second operand give the same result. -/
theorem egcdRec_eq_of_le {n m a b : Nat} (hn : b ≤ n) (hm : b ≤ m) : egcdRec n a b = egcdRec m a b := by
  induction n generalizing m a b with
  | zero =>
    obtain rfl : b = 0 := by omega
    simp
  | succ n ih =>
    by_cases hb : b = 0
    · simp [hb]
    · obtain ⟨m, rfl⟩ : ∃ k, m = k + 1 := ⟨m - 1, by omega⟩
      have hlt : a % b < b := Nat.mod_lt a (by omega)
      have hsame : egcdRec n b (a % b) = egcdRec m b (a % b) := ih (by omega) (by omega)
      rw [egcdRec_succ n a (by omega), egcdRec_succ m a (by omega), hsame]

theorem egcdRec_eq_egcd {n a b : Nat} (h : b ≤ n) : egcdRec n a b = egcd a b := egcdRec_eq_of_le h le_rfl

@[simp] theorem egcd_zero_right (a : Nat) : egcd a 0 = (a, 1, 0) := rfl

theorem egcd_eq_mod (a : Nat) {b : Nat} (hb : 1 ≤ b) :
    egcd a b = ((egcd b (a % b)).1, (egcd b (a % b)).2.2,
      (egcd b (a % b)).2.1 - (a / b : Nat) * (egcd b (a % b)).2.2) := by
  have hlt : a % b < b := Nat.mod_lt a hb
  rw [← egcdRec_eq_egcd (show b ≤ b + 1 by omega), egcdRec_succ b a hb, egcdRec_eq_egcd hlt.le]

/-- Settles O38: the defining equations hold because the bound on the turns does not matter once it reaches the second
operand. -/
theorem euclidRecursions : Obligations.EuclidRecursions := by
  unfold Obligations.EuclidRecursions
  exact ⟨fun v ml => fits_iff ml v, euclid_zero_right, fun a b _ => euclid_eq_mod a b, egcd_zero_right,
    fun a _ hb => egcd_eq_mod a hb⟩

end Sys2Proof.Machine

/-! PROOFS. The results of the commands: every value a command stages fits the register it goes to (10_state.md R32,
42_number_theory.md R182), and a result is a function of the registers and SCALAR (10_state.md R39). -/

namespace Sys2Proof.Machine

/-! Limb counts of small values and of a value with one limb replaced (20_memory.md R80). -/

theorem nlimbs_word (x : Word) : nlimbs x.toNat ≤ 1 := (nlimbs_le_iff le_rfl).2 x.isLt

/-- The new limb in place, between the parts of `v` below and above it. -/
theorem replaceLimb_eq (v i x : Nat) :
    replaceLimb v i x = v % 2 ^ (64 * i) + x * 2 ^ (64 * i) + v / 2 ^ (64 * (i + 1)) * 2 ^ (64 * (i + 1)) := by
  have hsplit := split_at_limb v i
  unfold replaceLimb
  omega

theorem nlimbs_replaceLimb_le {v i ml : Nat} (x : Word) (hv : nlimbs v ≤ ml) (hi : i < ml) :
    nlimbs (replaceLimb v i x.toNat) ≤ ml := by
  have hml : 1 ≤ ml := by omega
  rw [nlimbs_le_iff hml] at hv ⊢
  have hpow : 2 ^ (64 * ml) = 2 ^ (64 * (ml - (i + 1))) * 2 ^ (64 * (i + 1)) := by
    rw [← Nat.pow_add]; congr 1; omega
  have hnext : 2 ^ (64 * (i + 1)) = 2 ^ 64 * 2 ^ (64 * i) := by rw [← Nat.pow_add]; congr 1; omega
  have hhigh : v / 2 ^ (64 * (i + 1)) + 1 ≤ 2 ^ (64 * (ml - (i + 1))) :=
    Nat.div_lt_of_lt_mul (by rwa [Nat.mul_comm, ← hpow])
  have hlow : v % 2 ^ (64 * i) < 2 ^ (64 * i) := Nat.mod_lt _ (by positivity)
  have hlimb : (x.toNat + 1) * 2 ^ (64 * i) ≤ 2 ^ (64 * (i + 1)) := by
    rw [hnext]; exact Nat.mul_le_mul_right _ x.isLt
  rw [Nat.add_mul, Nat.one_mul] at hlimb
  calc replaceLimb v i x.toNat
    _ < (v / 2 ^ (64 * (i + 1)) + 1) * 2 ^ (64 * (i + 1)) := by
      rw [replaceLimb_eq, Nat.add_mul, Nat.one_mul]; omega
    _ ≤ 2 ^ (64 * ml) := by rw [hpow]; exact Nat.mul_le_mul_right _ hhigh

/-! The values of the number-theoretic commands. -/

theorem powLoop_lt {m : Nat} (hm : 0 < m) (n x e : Nat) {acc : Nat} (hacc : acc < m) : powLoop m n acc x e < m := by
  induction n generalizing acc x e with
  | zero => exact hacc
  | succ n ih =>
    unfold powLoop
    split_ifs
    · exact hacc
    · exact ih _ _ (Nat.mod_lt _ hm)
    · exact ih _ _ hacc

theorem modpowValue_lt {m : Nat} (a b : Nat) (hm : m ≠ 0) : modpowValue a b m < m := by
  unfold modpowValue
  split_ifs with hone
  · omega
  · exact powLoop_lt (by omega) _ _ _ (by omega)

theorem gcd_le_max (a b : Nat) : Nat.gcd a b ≤ max a b := by
  rcases Nat.eq_zero_or_pos a with rfl | ha
  · simp
  · exact (Nat.gcd_le_left b ha).trans (le_max_left a b)

theorem egcdRec_fst {n a b : Nat} (h : b ≤ n) : (egcdRec n a b).1 = Nat.gcd a b := by
  induction n generalizing a b with
  | zero =>
    obtain rfl : b = 0 := by omega
    simp
  | succ n ih =>
    rcases Nat.eq_zero_or_pos b with rfl | hb
    · simp
    · have hlt : a % b < b := Nat.mod_lt a hb
      rw [egcdRec_succ n a hb, ih (by omega), gcd_mod_eq_gcd]

theorem egcd_fst (a b : Nat) : (egcd a b).1 = Nat.gcd a b := egcdRec_fst le_rfl

/-- R182, with the bound 1 for the zero operands. A turn replaces `(x, y)` by `(y, x - (a / b) * y)`; when `b` divides
`a` the next call returns `y = 0`, which is what keeps `|x - (a / b) * y|` within 1 there. -/
theorem egcdRec_natAbs_le {n a b : Nat} (h : b ≤ n) :
    (egcdRec n a b).2.1.natAbs ≤ max b 1 ∧ (egcdRec n a b).2.2.natAbs ≤ max a 1 := by
  induction n generalizing a b with
  | zero =>
    obtain rfl : b = 0 := by omega
    simp
  | succ n ih =>
    rcases Nat.eq_zero_or_pos b with rfl | hb
    · simp
    · have hlt : a % b < b := Nat.mod_lt a hb
      obtain ⟨hx, hy⟩ := ih (a := b) (b := a % b) (by omega)
      rw [egcdRec_succ n a hb]
      refine ⟨hy, ?_⟩
      dsimp only
      rcases Nat.eq_zero_or_pos (a % b) with hdvd | hpos
      · simp [hdvd]
      · have hmul : a / b * (egcdRec n b (a % b)).2.2.natAbs ≤ a / b * b := Nat.mul_le_mul_left _ (by omega)
        have hdiv := Nat.div_add_mod' a b
        have hsub := Int.natAbs_sub_le (egcdRec n b (a % b)).2.1 ((a / b : Nat) * (egcdRec n b (a % b)).2.2)
        rw [Int.natAbs_mul, Int.natAbs_natCast] at hsub
        omega

theorem egcd_x_natAbs_le (a b : Nat) : (egcd a b).2.1.natAbs ≤ max b 1 := (egcdRec_natAbs_le le_rfl).1

theorem egcd_y_natAbs_le (a b : Nat) : (egcd a b).2.2.natAbs ≤ max a 1 := (egcdRec_natAbs_le le_rfl).2

/-! The result of a command, whichever it is. -/

/-- Every staged register write fits `ml` limbs. -/
def ResultFits (ml : Nat) (r : Except CommandError Staged) : Prop :=
  ∀ w, r = .ok w → ∀ p ∈ w.writes, nlimbs p.2 ≤ ml

theorem resultFits_ok {ml : Nat} {w : Staged} (h : ∀ p ∈ w.writes, nlimbs p.2 ≤ ml) : ResultFits ml (.ok w) := by
  rintro _ ⟨⟩; exact h

theorem resultFits_error (ml : Nat) (e : CommandError) : ResultFits ml (.error e) := nofun

theorem resultFits_reg {ml x : Nat} (d : Reg) (h : nlimbs x ≤ ml) : ResultFits ml (.ok (.regs [(d, x)])) :=
  resultFits_ok (by simpa [Staged.regs] using h)

theorem resultFits_stageIfFits (s : State) (d : Reg) (x : Nat) : ResultFits s.cfg.maxLimbs (stageIfFits s d x) := by
  obtain ⟨hfit, h⟩ | ⟨_, h⟩ := stageIfFits_cases s d x
  · rw [h]; exact resultFits_reg d hfit
  · rw [h]; exact resultFits_error _ _

theorem resultFits_stageIfNonzero {ml m : Nat} {w : Staged} (h : m ≠ 0 → ResultFits ml (.ok w)) :
    ResultFits ml (stageIfNonzero m w) := by
  by_cases hm : m = 0
  · subst hm; exact resultFits_error _ _
  · rw [stageIfNonzero_pos w hm]; exact h hm

theorem resultFits_stageIfDistinct {ml : Nat} {r : Except CommandError Staged} (distinct : Bool)
    (h : ResultFits ml r) : ResultFits ml (stageIfDistinct distinct r) := by
  cases distinct with
  | false => exact resultFits_error _ _
  | true => exact h

/-- A result below a modulus that fits. -/
theorem resultFits_modulus {ml m x : Nat} (d : Reg) (hm : nlimbs m ≤ ml) (h : m ≠ 0 → x < m) :
    ResultFits ml (stageIfNonzero m (.regs [(d, x)])) :=
  resultFits_stageIfNonzero fun h0 => resultFits_reg d ((nlimbs_mono (h h0).le).trans hm)

theorem nlimbs_max_le {a b ml : Nat} (ha : nlimbs a ≤ ml) (hb : nlimbs b ≤ ml) : nlimbs (max a b) ≤ ml := by
  rcases max_choice a b with h | h <;> rwa [h]

theorem nlimbs_one : nlimbs 1 = 1 := by decide

theorem resultFits_egcd {ml a b : Nat} (g x y : Reg) (hml : 1 ≤ ml) (ha : nlimbs a ≤ ml) (hb : nlimbs b ≤ ml) :
    ResultFits ml (.ok (stageEgcd g x y (egcd a b))) := by
  have hg : nlimbs (egcd a b).1 ≤ ml := by
    rw [egcd_fst]; exact (nlimbs_mono (gcd_le_max a b)).trans (nlimbs_max_le ha hb)
  have hx := (nlimbs_mono (egcd_x_natAbs_le a b)).trans (nlimbs_max_le hb (nlimbs_one.trans_le hml))
  have hy := (nlimbs_mono (egcd_y_natAbs_le a b)).trans (nlimbs_max_le ha (nlimbs_one.trans_le hml))
  exact resultFits_ok (by simp [stageEgcd, hg, hx, hy])

theorem resultFits_modinv {ml m : Nat} (d : Reg) (a : Nat) (hml : 1 ≤ ml) (hm : nlimbs m ≤ ml) :
    ResultFits ml (modinvResult d a m) := by
  unfold modinvResult
  dsimp only
  split_ifs
  · exact resultFits_reg d hml
  · refine resultFits_modulus d hm fun h0 => ?_
    have hlt := Int.emod_lt_of_pos (egcd a m).2.1 (show (0 : Int) < m by omega)
    omega

/-- From registers within capacity every command stages values within capacity. -/
theorem exec_resultFits (i : Instr) {s : State} (hml : 1 ≤ s.cfg.maxLimbs)
    (hreg : ∀ r, nlimbs (s.reg r) ≤ s.cfg.maxLimbs) :
    ∃ r, exec i s = s.finish r ∧ ResultFits s.cfg.maxLimbs r := by
  have hle {x : Nat} (r : Reg) (h : x ≤ s.reg r) : nlimbs x ≤ s.cfg.maxLimbs := (nlimbs_mono h).trans (hreg r)
  cases i with
  | nop => exact ⟨_, rfl, resultFits_ok nofun⟩
  | cmp a b => exact ⟨_, rfl, resultFits_ok nofun⟩
  | add d a b => exact ⟨_, rfl, resultFits_stageIfFits s d _⟩
  | sub d a b =>
    refine ⟨_, rfl, ?_⟩
    split_ifs
    · exact resultFits_error _ _
    · exact resultFits_reg d (hle a (Nat.sub_le _ _))
  | muls d a => exact ⟨_, rfl, resultFits_stageIfFits s d _⟩
  | mul d a b => exact ⟨_, rfl, resultFits_stageIfFits s d _⟩
  | div q r a b =>
    refine ⟨_, rfl, resultFits_stageIfDistinct _ (resultFits_stageIfNonzero fun _ => resultFits_ok ?_)⟩
    have hq := hle a (Nat.div_le_self _ (s.reg b))
    have hr := hle a (Nat.mod_le _ (s.reg b))
    simp [Staged.regs, hq, hr]
  | mod d a m => exact ⟨_, rfl, resultFits_modulus d (hreg m) fun h0 => Nat.mod_lt _ (by omega)⟩
  | modpow d base exp m => exact ⟨_, rfl, resultFits_modulus d (hreg m) (modpowValue_lt _ _)⟩
  | modmul d a b m => exact ⟨_, rfl, resultFits_modulus d (hreg m) fun h0 => Nat.mod_lt _ (by omega)⟩
  | gcd d a b =>
    refine ⟨_, rfl, resultFits_reg d ?_⟩
    rw [euclid_eq_gcd]
    exact (nlimbs_mono (gcd_le_max _ _)).trans (nlimbs_max_le (hreg a) (hreg b))
  | egcd g x y a b => exact ⟨_, rfl, resultFits_stageIfDistinct _ (resultFits_egcd g x y hml (hreg a) (hreg b))⟩
  | modinv d a m => exact ⟨_, rfl, resultFits_modinv d _ hml (hreg m)⟩
  | clr d => exact ⟨_, rfl, resultFits_reg d hml⟩
  | mov d a => exact ⟨_, rfl, resultFits_reg d (hreg a)⟩
  | lds d => exact ⟨_, rfl, resultFits_reg d ((nlimbs_word s.scalar).trans hml)⟩

/-- Two states with the same registers, SCALAR and MAXLIMBS complete a command with the same result. -/
theorem exec_finish_congr (i : Instr) {s u : State} (hv : s.v = u.v) (hscalar : s.scalar = u.scalar)
    (hml : s.cfg.maxLimbs = u.cfg.maxLimbs) : ∃ r, exec i s = s.finish r ∧ exec i u = u.finish r := by
  have hreg := reg_congr hv
  have hop : s.scalarOperand = u.scalarOperand := congrArg BitVec.toNat hscalar
  have hfits (d : Reg) (x : Nat) : stageIfFits s d x = stageIfFits u d x := by simp only [stageIfFits, hml]
  cases i <;>
    simp only [exec, execNop, execCmp, execAdd, execSub, execMuls, execMul, execDiv, execMod, execModpow, execModmul,
      execGcd, execEgcd, execModinv, execClr, execMov, execLds, hreg, hop, hfits] <;>
    exact ⟨_, rfl, rfl⟩

end Sys2Proof.Machine

/-! PROOFS. The invariant: every operation a step is made of keeps it, and the configuration with it (00_scope.md R20,
10_state.md R32, R46, R47). -/

namespace Sys2Proof.Machine

/-- From a state that meets the invariant, `t` meets it too, under the same configuration. -/
def State.Keeps (s t : State) : Prop := s.Inv → t.Inv ∧ t.cfg = s.cfg

theorem State.Keeps.refl (s : State) : s.Keeps s := fun h => ⟨h, rfl⟩

theorem State.Keeps.trans {s t u : State} (hst : s.Keeps t) (htu : t.Keeps u) : s.Keeps u := fun h =>
  have ⟨ht, hcfg⟩ := hst h
  have ⟨hu, hcfg'⟩ := htu ht
  ⟨hu, hcfg'.trans hcfg⟩

theorem two_le_maxLimbs {c : Config} (h : c.wf = true) : 2 ≤ c.maxLimbs := by
  simp only [Config.wf, Bool.and_eq_true, decide_eq_true_eq] at h
  exact h.1.1

theorem maxLimbs_le {c : Config} (h : c.wf = true) : c.maxLimbs ≤ 512 := by
  simp only [Config.wf, Bool.and_eq_true, decide_eq_true_eq] at h
  exact h.1.2

/-! Reset (R52). -/

theorem hardReset_inv {s : State} (h : s.cfg.wf = true) : s.hardReset.Inv where
  config := h
  registersFit r := by
    rw [hardReset_reg, nlimbs_zero]
    exact one_le_two.trans (two_le_maxLimbs h)
  expwinLegal := by rw [hardReset_ctrl]; decide
  errcodeOfErr _ := rfl
  busyNotDone := nofun

theorem hardReset_keeps (s : State) : s.Keeps s.hardReset := fun h => ⟨hardReset_inv h.config, rfl⟩

/-- A reset state is what a hard reset makes of it. -/
theorem resetWith_eq_hardReset (c : Config) : State.resetWith c = (State.resetWith c).hardReset := rfl

theorem resetWith_inv {c : Config} (h : c.wf = true) : (State.resetWith c).Inv := by
  rw [resetWith_eq_hardReset]; exact hardReset_inv h

/-! Completion (R39). -/

/-- Completion keeps every register within capacity when the staged writes are. -/
theorem nlimbs_applyWrites_le {ml : Nat} (ws : List (Reg × Nat)) {v : Vector Nat 16} (q : Reg)
    (hv : ∀ r : Reg, nlimbs v[r.val] ≤ ml) (hws : ∀ p ∈ ws, nlimbs p.2 ≤ ml) :
    nlimbs (applyWrites v ws)[q.val] ≤ ml := by
  induction ws generalizing v with
  | nil => exact hv q
  | cons p ws ih =>
    obtain ⟨hp, hrest⟩ := List.forall_mem_cons.1 hws
    rw [applyWrites_cons]
    refine ih (fun r => ?_) hrest
    rw [Vector.getElem_set]
    split_ifs
    · exact hp
    · exact hv r

theorem completeError_keeps (s : State) (e : CommandError) : s.Keeps (s.completeError e) := fun h =>
  ⟨{ config := h.config
     registersFit := h.registersFit
     expwinLegal := h.expwinLegal
     errcodeOfErr := nofun
     busyNotDone := nofun }, rfl⟩

theorem completeOk_keeps {s : State} {w : Staged} (hw : ∀ p ∈ w.writes, nlimbs p.2 ≤ s.cfg.maxLimbs) :
    s.Keeps (s.completeOk w) := fun h =>
  ⟨{ config := h.config
     registersFit := fun q => nlimbs_applyWrites_le w.writes q h.registersFit hw
     expwinLegal := h.expwinLegal
     errcodeOfErr := fun _ => rfl
     busyNotDone := nofun }, rfl⟩

theorem exec_keeps {i : Instr} {s t : State} (h : exec i s = .next t) : s.Keeps t := fun hs => by
  have hml : 1 ≤ s.cfg.maxLimbs := one_le_two.trans (two_le_maxLimbs hs.config)
  obtain ⟨r, hr, hfits⟩ := exec_resultFits i hml hs.registersFit
  obtain ⟨w, rfl, rfl⟩ | ⟨e, rfl, rfl⟩ := finish_cases (hr ▸ h)
  · exact completeOk_keeps (hfits w rfl) hs
  · exact completeError_keeps s e hs

theorem coreTurn_keeps {s t : State} (h : coreTurn s = .next t) : s.Keeps t := by
  obtain ⟨_, hturn⟩ | ⟨_, _, _, _, hturn⟩ | ⟨_, i, _, _, hturn⟩ := coreTurn_cases s
  · cases hturn.symm.trans h; exact .refl s
  · cases hturn.symm.trans h; exact completeError_keeps s _
  · exact exec_keeps (hturn.symm.trans h)

/-! Host writes (20_memory.md R79, R82). -/

theorem dropWrite_keeps (s : State) : s.Keeps s.dropWrite := fun h => ⟨{ h with }, rfl⟩

/-- A gated write is judged on an idle state only. -/
theorem unlessBusy_keeps {s t : State} (h : s.busy = false → s.Keeps t) : s.Keeps (s.unlessBusy t) := by
  cases hb : s.busy with
  | true => rw [unlessBusy_busy t hb]; exact dropWrite_keeps s
  | false => rw [unlessBusy_idle t hb]; exact h hb

theorem accept_keeps (s : State) (x : Word) : s.Keeps (s.accept x) :=
  unlessBusy_keeps fun _ h =>
    ⟨{ config := h.config
       registersFit := h.registersFit
       expwinLegal := h.expwinLegal
       errcodeOfErr := fun _ => rfl
       busyNotDone := fun _ => ⟨rfl, rfl⟩ }, rfl⟩

theorem writeScalar_keeps (s : State) (x : Word) : s.Keeps (s.writeScalar x) :=
  unlessBusy_keeps fun _ h => ⟨{ h with }, rfl⟩

theorem writeLimb_keeps {s : State} {i : Nat} (r : Reg) (x : Word) (hi : i < s.cfg.maxLimbs) :
    s.Keeps (s.writeLimb r i x) :=
  unlessBusy_keeps fun _ h =>
    ⟨{ h with
       registersFit := fun q => by
         rw [reg_setReg]
         split_ifs
         · exact nlimbs_replaceLimb_le x (h.registersFit r) hi
         · exact h.registersFit q }, rfl⟩

theorem legalExpwin_range (x : BitVec 3) : 1 ≤ (legalExpwin x).toNat ∧ (legalExpwin x).toNat ≤ 6 := by
  revert x; decide

theorem writeCtrl_keeps (s : State) (x : Word) : s.Keeps (s.writeCtrl x) := by
  cases hx : x.getLsbD 6 with
  | true => rw [writeCtrl_reset s hx]; exact hardReset_keeps s
  | false =>
    rw [writeCtrl_store s hx]
    exact fun h => ⟨{ h with expwinLegal := legalExpwin_range _ }, rfl⟩

/-- A STATUS write clears ERR and ERRCODE together (R79). -/
theorem writeOneToClear_errcodeOfErr {st : Status} (x : Word) (h : st.err = false → st.errcode = none) :
    (st.writeOneToClear x).err = false → (st.writeOneToClear x).errcode = none := by
  unfold Status.writeOneToClear
  cases x.getLsbD 2 with
  | true => simp
  | false => simpa using h

theorem acknowledge_keeps (s : State) (x : Word) : s.Keeps (s.acknowledge x) := fun h =>
  ⟨{ h with
     errcodeOfErr := writeOneToClear_errcodeOfErr x h.errcodeOfErr
     busyNotDone := fun hb => by
       obtain ⟨hdone, herr⟩ := h.busyNotDone hb
       simp [Status.writeOneToClear, hdone, herr] }, rfl⟩

theorem hostWrite_keeps (s : State) (off : Nat) (x : Word) : s.Keeps (s.hostWrite off x) := by
  obtain h | ⟨_, h⟩ | ⟨_, h⟩ | ⟨_, h⟩ | ⟨_, h⟩ | ⟨r, i, _, hi, h⟩ := hostWrite_cases s off x
  all_goals rw [h]
  · exact .refl s
  · exact writeCtrl_keeps s x
  · exact acknowledge_keeps s x
  · exact accept_keeps s x
  · exact writeScalar_keeps s x
  · exact writeLimb_keeps r x hi

/-! Events and steps. -/

theorem hostRead_keeps (s : State) (off : Nat) : s.Keeps (s.hostRead off) := fun h => ⟨{ h with }, rfl⟩

theorem busError_keeps (s : State) (off width : Nat) : s.Keeps (s.busError off width) := fun h => ⟨{ h with }, rfl⟩

theorem performAccess_keeps {a : Access} {s t : State} (h : performAccess a s = .next t) : s.Keeps t := by
  obtain ⟨_, hp⟩ | ⟨_, _, hp⟩ | ⟨_, _, _, hp⟩ | ⟨x, _, _, _, hp⟩ := performAccess_cases a s
  all_goals cases hp.symm.trans h
  · exact busError_keeps s _ _
  · exact hostRead_keeps s _
  · exact hostWrite_keeps s _ x

theorem perform_keeps {e : Event} {s t : State} (h : perform e s = .next t) : s.Keeps t := by
  cases e with
  | access a => exact performAccess_keeps h
  | coreTurn => exact coreTurn_keeps h
  | hardReset => cases h; exact hardReset_keeps s

theorem withAgenda_keeps (s : State) (rest : List Event) : s.Keeps { s with agenda := rest } :=
  fun h => ⟨{ h with }, rfl⟩

theorem step_keeps {s t : State} (h : step s = .next t) : s.Keeps t := by
  cases hs : s.agenda with
  | nil => exact coreTurn_keeps (step_nil hs ▸ h)
  | cons e rest => exact (withAgenda_keeps s rest).trans (perform_keeps (step_cons hs ▸ h))

/-- Settles O58: every operation a step is made of keeps the invariant and the configuration. -/
theorem stepKeepsTheInvariant : Obligations.StepKeepsTheInvariant := by
  unfold Obligations.StepKeepsTheInvariant
  exact fun _ _ hinv hstep => step_keeps hstep hinv

/-- Settles O59: each reset state is a hard reset of itself. -/
theorem resetMeetsTheInvariant : Obligations.ResetMeetsTheInvariant := by
  unfold Obligations.ResetMeetsTheInvariant
  exact ⟨resetWith_inv (by decide), fun _ => resetWith_inv⟩

end Sys2Proof.Machine

/-! PROOFS. The registers of the window as the host sees them: reset values (10_state.md R52), the constants (R44, R45),
CTRL, STATUS, CMD, SCALAR and LEN (R38, R46, R47, R49, R50). -/

namespace Sys2Proof.Machine

/-! Reads and writes at the offsets of the single registers (20_memory.md R72, R78, R79). -/

@[simp] theorem readValue_id (s : State) : s.readValue 0x0000 = Config.idValue := rfl
@[simp] theorem readValue_param (s : State) : s.readValue 0x0008 = s.cfg.paramValue := rfl
@[simp] theorem readValue_ctrl (s : State) : s.readValue 0x0010 = s.ctrl.word := rfl
@[simp] theorem readValue_status (s : State) : s.readValue 0x0018 = s.status.word s.busy := rfl
@[simp] theorem readValue_scalar (s : State) : s.readValue 0x0028 = s.scalar := rfl
@[simp] theorem hostWrite_id (s : State) (x : Word) : s.hostWrite 0x0000 x = s := rfl
@[simp] theorem hostWrite_param (s : State) (x : Word) : s.hostWrite 0x0008 x = s := rfl
@[simp] theorem hostWrite_ctrl (s : State) (x : Word) : s.hostWrite 0x0010 x = s.writeCtrl x := rfl
@[simp] theorem hostWrite_status (s : State) (x : Word) : s.hostWrite 0x0018 x = s.acknowledge x := rfl
@[simp] theorem hostWrite_cmd (s : State) (x : Word) : s.hostWrite 0x0020 x = s.accept x := rfl
@[simp] theorem hostWrite_scalar (s : State) (x : Word) : s.hostWrite 0x0028 x = s.writeScalar x := rfl

@[simp] theorem hostWrite_len (s : State) (r : Reg) (x : Word) : s.hostWrite (0x0100 + 8 * r.val) x = s := by
  rw [State.hostWrite, targetOf_lenOffset]

theorem readValue_len {s : State} (r : Reg) (h : s.busy = false) :
    s.readValue (0x0100 + 8 * r.val) = BitVec.ofNat 64 (nlimbs (s.reg r)) := by
  rw [State.readValue, targetOf_lenOffset, State.readIsDraw, h]; rfl

/-! The register views as sums of their fields at the weights of their bits. -/

theorem toNat_append_eq_add {m n : Nat} (x : BitVec m) (y : BitVec n) :
    (x ++ y).toNat = x.toNat * 2 ^ n + y.toNat := by
  rw [BitVec.toNat_append, ← Nat.shiftLeft_add_eq_or_of_lt y.isLt, Nat.shiftLeft_eq]

theorem paramValue_toNat {c : Config} (h : c.wf = true) :
    c.paramValue.toNat = c.maxLimbs + 16 * 2 ^ 16 + 64 * 2 ^ 24 := by
  have hml := maxLimbs_le h
  simp only [Config.paramValue, toNat_append_eq_add, BitVec.toNat_ofNat]
  omega

theorem ctrlWord_toNat (c : Ctrl) : c.word.toNat = c.ie.toNat + 2 * c.expwin.toNat + 16 * c.redhint.toNat := by
  simp only [Ctrl.word, toNat_append_eq_add, BitVec.toNat_ofNat, BitVec.toNat_ofBool]
  omega

theorem statusWord_toNat (st : Status) (busy : Bool) :
    (st.word busy).toNat = busy.toNat + 2 * st.done.toNat + 4 * st.err.toNat
      + 8 * (errcodeField st.errcode).toNat + 128 * st.cr.code.toNat
      + 512 * st.xneg.toNat + 1024 * st.yneg.toNat + 2048 * st.ovr.toNat := by
  simp only [Status.word, toNat_append_eq_add, BitVec.toNat_ofNat, BitVec.toNat_ofBool]
  omega

/-! What a CTRL write stores (R46). -/

theorem getLsbD_toNat (x : Word) (k : Nat) : (x.getLsbD k).toNat = bits x.toNat k k := by
  rw [bits, Nat.sub_self, BitVec.getLsbD, Nat.toNat_testBit, Nat.zero_add, Nat.pow_one]

theorem extractLsb'_toNat_eq_bits (x : Word) {lo hi len : Nat} (h : hi - lo + 1 = len) :
    (x.extractLsb' lo len).toNat = bits x.toNat hi lo := by
  rw [bits, h, BitVec.extractLsb'_toNat, Nat.shiftRight_eq_div_pow]

/-- EXPWIN keeps a written value in 1 .. 6 and takes 1 for the others. -/
theorem legalExpwin_toNat (x : BitVec 3) :
    (legalExpwin x).toNat = if 1 ≤ x.toNat ∧ x.toNat ≤ 6 then x.toNat else 1 := by
  revert x; decide

theorem ctrlOfWord_ie (x : Word) : (Ctrl.ofWord x).ie.toNat = bits x.toNat 0 0 := getLsbD_toNat x 0

theorem ctrlOfWord_redhint (x : Word) : (Ctrl.ofWord x).redhint.toNat = bits x.toNat 5 4 :=
  extractLsb'_toNat_eq_bits x rfl

theorem ctrlOfWord_expwin (x : Word) :
    (Ctrl.ofWord x).expwin.toNat =
      if 1 ≤ bits x.toNat 3 1 ∧ bits x.toNat 3 1 ≤ 6 then bits x.toNat 3 1 else 1 := by
  rw [← extractLsb'_toNat_eq_bits x (len := 3) rfl]
  exact legalExpwin_toNat _

/-! Accept (R38). -/

theorem accept_idle {s : State} (x : Word) (h : s.busy = false) :
    s.accept x =
      { s with
        inflight := some x
        status := { s.status with done := false, err := false, errcode := none } } := unlessBusy_idle _ h

theorem accept_busy {s : State} (x : Word) (h : s.busy = true) : s.accept x = s.dropWrite := unlessBusy_busy _ h

theorem busy_accept (s : State) (x : Word) : (s.accept x).busy = true := by
  cases h : s.busy with
  | true => rw [accept_busy x h]; exact h
  | false => rw [accept_idle x h]; rfl

/-! The obligations about single registers. -/

/-- `State.reset` and a soft reset are hard resets, so one state's fields answer all three. -/
theorem eq_hardReset_of_reset {s t : State}
    (h : t = s.hardReset ∨ (∃ x : Word, x.getLsbD 6 = true ∧ t = s.hostWrite 0x0010 x) ∨ t = State.reset) :
    ∃ u : State, t = u.hardReset := by
  obtain rfl | ⟨x, hx, rfl⟩ | rfl := h
  · exact ⟨s, rfl⟩
  · exact ⟨s, writeCtrl_reset s hx⟩
  · exact ⟨State.reset, resetWith_eq_hardReset _⟩

/-- Settles O1: each of the three reset states is a hard reset, whose fields are those of R52. -/
theorem resetGivesEveryRegisterItsValue : Obligations.ResetGivesEveryRegisterItsValue := by
  unfold Obligations.ResetGivesEveryRegisterItsValue
  intro s t h
  obtain ⟨u, rfl⟩ := eq_hardReset_of_reset h
  simp [State.irq, Ctrl.afterReset, Status.afterReset]

/-- Settles O3: `PARAM` is a sum of its fields because MAXLIMBS fits its 16 bits. -/
theorem idAndParamReadTheirConstants : Obligations.IdAndParamReadTheirConstants := by
  unfold Obligations.IdAndParamReadTheirConstants
  exact fun s x hwf => ⟨rfl, paramValue_toNat hwf, hostWrite_id s x, hostWrite_param s x⟩

/-- Settles O4: the STATUS word is the sum of its fields, and the codes are those of R221 and R41. -/
theorem statusReadHasItsLayout : Obligations.StatusReadHasItsLayout := by
  unfold Obligations.StatusReadHasItsLayout
  intro s
  rw [readValue_status, statusWord_toNat]
  rcases s.status.errcode with _ | _ | _ | _ | _ <;> cases s.status.cr <;> rfl

/-- Settles O6: the stored CTRL is `Ctrl.ofWord x`, whose fields are the written bits but for the WARL field. -/
theorem ctrlWriteStoresLegalFields : Obligations.CtrlWriteStoresLegalFields := by
  unfold Obligations.CtrlWriteStoresLegalFields
  intro s x hx
  have hwrite : s.hostWrite 0x0010 x = { s with ctrl := Ctrl.ofWord x } := writeCtrl_store s hx
  refine ⟨Ctrl.ofWord x, hwrite, ctrlOfWord_ie x, ctrlOfWord_redhint x, ctrlOfWord_expwin x, ?_⟩
  rw [hwrite, readValue_ctrl, ctrlWord_toNat]

/-- Settles O16: accept is the gated write of INFLIGHT, and either way a command is in flight after it. -/
theorem acceptLatchesTheCommand : Obligations.AcceptLatchesTheCommand := by
  unfold Obligations.AcceptLatchesTheCommand
  exact fun s x => ⟨accept_idle x, accept_busy x, busy_accept s x⟩

/-- Settles O17: SCALAR is read as it stands and written through the BUSY gate. -/
theorem scalarReadsAndWritesAllBits : Obligations.ScalarReadsAndWritesAllBits := by
  unfold Obligations.ScalarReadsAndWritesAllBits
  exact fun s x => ⟨readValue_scalar s, unlessBusy_idle _, unlessBusy_busy _, rfl, rfl⟩

/-- Settles O18: the invariant bounds the limb count by 512, so `LEN` shows it whole. -/
theorem lenReadsTheLimbCount : Obligations.LenReadsTheLimbCount := by
  unfold Obligations.LenReadsTheLimbCount
  refine ⟨fun s r x hinv hidle => ?_, fun s r => ?_⟩
  · have hfit := hinv.registersFit r
    have hml := maxLimbs_le hinv.config
    refine ⟨?_, nlimbs_pos _, hfit, hostWrite_len s r x⟩
    rw [readValue_len r hidle, BitVec.toNat_ofNat]
    exact Nat.mod_eq_of_lt (by omega)
  · rw [readValue_len r (hardReset_busy s), hardReset_reg]; rfl

end Sys2Proof.Machine

/-! PROOFS. What holds of every command: the CORE's turn runs it, it completes, and its result depends on the big
registers and SCALAR only (10_state.md R39). -/

namespace Sys2Proof.Machine

theorem coreTurn_decoded {s : State} {w : Word} {i : Instr} (hw : s.inflight = some w)
    (hi : decodeBytes (bytesOfWord w) = .ok i) : coreTurn s = exec i s := by
  rw [decodeBytes_bytesOfWord] at hi
  simp only [coreTurn, fetch_some hw, hi]

theorem coreTurn_idle {s : State} (h : s.inflight = none) : coreTurn s = .next s := by
  simp only [coreTurn, fetch_none h]

/-- Settles O26: a step with nothing else to do, or with the CORE's turn first, is a turn of the CORE. -/
theorem coreTurnRunsTheDecodedCommand : Obligations.CoreTurnRunsTheDecodedCommand := by
  unfold Obligations.CoreTurnRunsTheDecodedCommand
  refine ⟨fun s w i hw hi => ⟨fun hnil => ?_, fun rest hcons => ?_⟩, fun s hidle hnil => ?_⟩
  · rw [step_nil hnil, coreTurn_decoded hw hi]
  · rw [step_cons hcons]; exact coreTurn_decoded hw hi
  · rw [step_nil hnil, coreTurn_idle hidle]

/-- Every next state a command gives is the completion with its result. -/
theorem exec_next_iff {i : Instr} {s t : State} {r : Except CommandError Staged} (h : exec i s = s.finish r) :
    exec i s = .next t ↔ t = s.complete r := by
  rw [h, State.finish, Host.Outcome.next.injEq, eq_comm]

theorem complete_done (s : State) (r : Except CommandError Staged) : (s.complete r).status.done = true := by
  cases r <;> rfl

theorem complete_inflight (s : State) (r : Except CommandError Staged) : (s.complete r).inflight = none := by
  cases r <;> rfl

theorem complete_err_iff (s : State) (r : Except CommandError Staged) :
    (s.complete r).status.err = true ↔ (s.complete r).status.errcode ≠ none := by
  cases r <;> simp

/-- Settles O52: every command ends with the completion step, whatever its result. -/
theorem everyCommandCompletes : Obligations.EveryCommandCompletes := by
  unfold Obligations.EveryCommandCompletes
  intro i s
  obtain ⟨r, hr⟩ := exec_eq_finish i s
  have hidle := complete_inflight s r
  exact ⟨s.complete r, hr, hidle, by rw [State.busy, hidle]; rfl, complete_done s r, complete_err_iff s r⟩

/-- The registers and the error after a completion are the result's, on register files that agree. -/
theorem complete_congr {s u : State} (hv : s.v = u.v) (r : Except CommandError Staged) :
    (s.complete r).v = (u.complete r).v ∧ (s.complete r).status.err = (u.complete r).status.err ∧
      (s.complete r).status.errcode = (u.complete r).status.errcode := by
  cases r <;> simp [hv]

/-- CTRL passes through a completion. -/
theorem complete_withCtrl (s : State) (c : Ctrl) (r : Except CommandError Staged) :
    { s with ctrl := c }.complete r = { s.complete r with ctrl := c } := by
  cases r <;> rfl

theorem exec_cmp_cr {a b : Reg} {s t : State} (h : exec (.cmp a b) s = .next t) :
    t.status.cr = compareValues (s.reg a) (s.reg b) := by
  cases h; rfl

theorem exec_egcd_signs {g x y a b : Reg} {s t : State} (hgx : g ≠ x) (hgy : g ≠ y) (hxy : x ≠ y)
    (h : exec (.egcd g x y a b) s = .next t) :
    t.status.xneg = signBit (egcd (s.reg a) (s.reg b)).2.1 ∧
    t.status.yneg = signBit (egcd (s.reg a) (s.reg b)).2.2 := by
  have hdistinct : (g != x && g != y && x != y) = true := by simp [hgx, hgy, hxy]
  rw [exec, execEgcd, hdistinct] at h
  cases h; exact ⟨rfl, rfl⟩

/-- Settles O55: the same result completes the command on both states. -/
theorem commandsDependOnRegistersOnly : Obligations.CommandsDependOnRegistersOnly := by
  unfold Obligations.CommandsDependOnRegistersOnly
  refine ⟨fun i s t u t' hv hscalar hml ht ht' => ?_, fun i s t c ht => ?_⟩
  · obtain ⟨r, hs, hu⟩ := exec_finish_congr i hv hscalar hml
    have hreg := reg_congr hv
    obtain ⟨hregs, herr, hcode⟩ := complete_congr hv r
    rw [← (exec_next_iff hs).1 ht, ← (exec_next_iff hu).1 ht'] at hregs herr hcode
    refine ⟨hregs, herr, hcode, ?_, ?_⟩
    · rintro a b rfl
      rw [exec_cmp_cr ht, exec_cmp_cr ht', hreg, hreg]
    · rintro g x y a b rfl hgx hgy hxy
      obtain ⟨hx, hy⟩ := exec_egcd_signs hgx hgy hxy ht
      obtain ⟨hx', hy'⟩ := exec_egcd_signs hgx hgy hxy ht'
      rw [hx, hy, hx', hy', hreg, hreg]
      exact ⟨rfl, rfl⟩
  · obtain ⟨r, hs, hu⟩ := exec_finish_congr i (s := s) (u := { s with ctrl := c }) rfl rfl rfl
    rw [(exec_next_iff hs).1 ht, ← complete_withCtrl]
    exact hu

end Sys2Proof.Machine

/-! PROOFS. The register window (20_memory.md): where each register stands (R72, R73), what a read returns (R78, R83),
and what a write changes, idle or busy (R79, R82). -/

namespace Sys2Proof.Machine

/-! The address map (R72, R73). -/

/-- An offset that passes every test of the map stands for no register. -/
theorem targetOf_reservedRange {off : Nat}
    (h : (0x30 ≤ off ∧ off < 0x100) ∨ (0x180 ≤ off ∧ off < 0x1000) ∨ 0x11000 ≤ off) :
    targetOf off = .reserved := by
  rw [targetOf]
  iterate 8 rw [if_neg (by omega)]

/-- Settles O7: the two blocks of the map, whose register numbers are below 16. -/
theorem addressMapLocatesEveryRegister : Obligations.AddressMapLocatesEveryRegister := by
  unfold Obligations.AddressMapLocatesEveryRegister
  refine ⟨fun off hlo hhi => ?_, fun r i hi => targetOf_limbOffset r hi, fun off hlo hhi => ?_, targetOf_lenOffset⟩
  · exact ⟨_, Nat.mod_eq_of_lt (by omega), targetOf_limbRange ⟨hlo, hhi⟩⟩
  · exact ⟨_, Nat.mod_eq_of_lt (by omega), targetOf_lenRange ⟨hlo, hhi⟩⟩

/-! What a read returns, by what stands at its offset (R78, R81, R83). -/

theorem readIsDraw_idle {s : State} (tgt : Target) (h : s.busy = false) : s.readIsDraw tgt = false := by
  cases tgt <;> simp [State.readIsDraw, h]

theorem readIsDraw_limb_above {s : State} {i : Nat} (r : Reg) (hi : s.cfg.maxLimbs ≤ i) :
    s.readIsDraw (.limb r i) = false := by
  simp [State.readIsDraw, hi]

theorem readIsDraw_limb_busy {s : State} {i : Nat} (r : Reg) (h : s.busy = true) (hi : i < s.cfg.maxLimbs) :
    s.readIsDraw (.limb r i) = true := by
  simp [State.readIsDraw, h, hi]

theorem readValue_exact {s : State} {off : Nat} (h : s.readIsDraw (targetOf off) = false) :
    s.readValue off = s.registerValue (targetOf off) := by
  rw [State.readValue, h]; rfl

/-- A draw returns the next free value and takes it. -/
theorem readValue_draw {s : State} {off : Nat} (h : s.readIsDraw (targetOf off) = true) :
    s.readValue off = Config.freeWord s.draws ∧ (s.hostRead off).draws = s.draws + 1 :=
  ⟨if_pos h, if_pos h⟩

theorem hostRead_draws_exact {s : State} {off : Nat} (h : s.readIsDraw (targetOf off) = false) :
    (s.hostRead off).draws = s.draws := by
  rw [State.hostRead, h]; rfl

theorem readValue_reserved {off : Nat} (s : State) (h : targetOf off = .reserved) : s.readValue off = 0 := by
  rw [State.readValue, h]; rfl

theorem readValue_limb_above {s : State} {off i : Nat} {r : Reg} (h : targetOf off = .limb r i)
    (hi : s.cfg.maxLimbs ≤ i) : s.readValue off = 0 := by
  have hexact : s.readIsDraw (targetOf off) = false := h ▸ readIsDraw_limb_above r hi
  rw [readValue_exact hexact, h]
  exact if_neg (Nat.not_lt.2 hi)

theorem readValue_limb {s : State} {i : Nat} (r : Reg) (hml : i < s.cfg.maxLimbs) (hi : i < 512)
    (hidle : s.busy = false) :
    s.readValue (0x1000 + 0x1000 * r.val + 8 * i) = BitVec.ofNat 64 (limb (s.reg r) i) := by
  rw [readValue_exact (readIsDraw_idle _ hidle), targetOf_limbOffset r hi]
  exact if_pos hml

/-! What a write changes, by what stands at its offset (R79, R80, R82). -/

/-- Read-only and reserved offsets ignore writes. -/
theorem hostWrite_ignored {off : Nat} (s : State) (x : Word)
    (h : targetOf off = .id ∨ targetOf off = .param ∨ (∃ r, targetOf off = .len r) ∨ targetOf off = .reserved) :
    s.hostWrite off x = s := by
  obtain h | h | ⟨r, h⟩ | h := h <;> rw [State.hostWrite, h]

theorem hostWrite_limb_above {s : State} {off i : Nat} {r : Reg} (x : Word) (h : targetOf off = .limb r i)
    (hi : s.cfg.maxLimbs ≤ i) : s.hostWrite off x = s := by
  rw [State.hostWrite, h]
  exact if_neg (Nat.not_lt.2 hi)

theorem hostWrite_limb {s : State} {i : Nat} (r : Reg) (x : Word) (hml : i < s.cfg.maxLimbs) (hi : i < 512) :
    s.hostWrite (0x1000 + 0x1000 * r.val + 8 * i) x = s.writeLimb r i x := by
  rw [State.hostWrite, targetOf_limbOffset r hi]
  exact if_pos hml

theorem writeLimb_idle {s : State} (r : Reg) (i : Nat) (x : Word) (h : s.busy = false) :
    s.writeLimb r i x = s.setReg r (replaceLimb (s.reg r) i x.toNat) := unlessBusy_idle _ h

theorem writeLimb_busy {s : State} (r : Reg) (i : Nat) (x : Word) (h : s.busy = true) :
    s.writeLimb r i x = s.dropWrite := unlessBusy_busy _ h

theorem writeScalar_busy {s : State} (x : Word) (h : s.busy = true) : s.writeScalar x = s.dropWrite :=
  unlessBusy_busy _ h

/-- Everything a host write can do while a command is in flight: the gated writes are one case. -/
theorem hostWrite_busy_cases {s : State} (off : Nat) (x : Word) (hbusy : s.busy = true) :
    s.hostWrite off x = s ∨ (off = 0x0010 ∧ s.hostWrite off x = s.writeCtrl x) ∨
      s.hostWrite off x = s.acknowledge x ∨ s.hostWrite off x = s.dropWrite := by
  obtain h | ⟨hctrl, h⟩ | ⟨_, h⟩ | ⟨_, h⟩ | ⟨_, h⟩ | ⟨r, i, _, _, h⟩ := hostWrite_cases s off x
  · exact .inl h
  · exact .inr (.inl ⟨(targetOf_eq_ctrl_iff off).1 hctrl, h⟩)
  · exact .inr (.inr (.inl h))
  all_goals refine .inr (.inr (.inr (h.trans ?_)))
  · exact accept_busy x hbusy
  · exact writeScalar_busy x hbusy
  · exact writeLimb_busy r i x hbusy

/-- A write-one-to-clear flag in the form of a choice on the written bit. -/
theorem and_not_eq_ite (flag bit : Bool) : (flag && !bit) = if bit then false else flag := by
  cases bit <;> simp

/-- Settles O5: each W1C bit clears its flag where it is set and keeps it where it is clear. -/
theorem statusWriteClearsOnlyWrittenOnes : Obligations.StatusWriteClearsOnlyWrittenOnes := by
  unfold Obligations.StatusWriteClearsOnlyWrittenOnes
  intro s x
  simp only [hostWrite_status, State.acknowledge, Status.writeOneToClear, and_not_eq_ite]

/-- Settles O8: a reserved offset stands for no register, and a limb window gates its limbs by MAXLIMBS. -/
theorem reservedOffsetsReadZeroIgnoreWrites : Obligations.ReservedOffsetsReadZeroIgnoreWrites := by
  unfold Obligations.ReservedOffsetsReadZeroIgnoreWrites
  intro s off x h
  by_cases hlimb : 0x1000 ≤ off ∧ off < 0x11000
  · have htgt := targetOf_limbRange hlimb
    have habove : s.cfg.maxLimbs ≤ (off - 0x1000) % 0x1000 / 8 := by omega
    exact ⟨readValue_limb_above htgt habove, hostWrite_limb_above x htgt habove⟩
  · have htgt : targetOf off = .reserved := targetOf_reservedRange (by omega)
    exact ⟨readValue_reserved s htgt, hostWrite_ignored s x (.inr (.inr (.inr htgt)))⟩

/-- Settles O14: while busy a write is ignored, dropped, or goes to CTRL or STATUS, and none of these but a soft reset
touches an operand. -/
theorem writesWhileBusyAreDropped : Obligations.WritesWhileBusyAreDropped := by
  unfold Obligations.WritesWhileBusyAreDropped
  intro s x hbusy
  refine ⟨accept_busy x hbusy, writeScalar_busy x hbusy, fun r i hml hi => ?_, fun off => hostWrite_ignored s x,
    ?_, ?_, fun hx => ?_, rfl⟩
  · rw [hostWrite_limb r x hml hi]
    exact writeLimb_busy r i x hbusy
  · rintro off _ rfl hoff
    obtain h | ⟨hctrl, _⟩ | h | h := hostWrite_busy_cases off x hbusy
    · rw [h]
    · exact absurd hctrl hoff
    · rw [h, acknowledge_ctrl]
    · rw [h, dropWrite_ctrl]
  · rintro off _ rfl hoff
    obtain h | ⟨hctrl, h⟩ | h | h := hostWrite_busy_cases off x hbusy
    · rw [h]; exact ⟨rfl, rfl, rfl⟩
    · have hx : x.getLsbD 6 = false := hoff.resolve_left (not_not_intro hctrl)
      rw [h, writeCtrl_store s hx]; exact ⟨rfl, rfl, rfl⟩
    · rw [h]; exact ⟨rfl, rfl, rfl⟩
    · rw [h]; exact ⟨rfl, rfl, rfl⟩
  · rw [hostWrite_ctrl, writeCtrl_store s hx]

/-- Settles O15: while busy a read is a draw exactly at `LEN` and the limbs below MAXLIMBS; of the other registers only
STATUS shows INFLIGHT. -/
theorem readsWhileBusyAreFreeDraws : Obligations.ReadsWhileBusyAreFreeDraws := by
  unfold Obligations.ReadsWhileBusyAreFreeDraws
  refine ⟨fun s off => ⟨_, rfl, fun hidle => hostRead_draws_exact (readIsDraw_idle _ hidle)⟩, fun s r hbusy => ?_,
    fun s r i hbusy hml hi => ?_, fun s off _ hoff => ?_⟩
  · exact readValue_draw (by rw [targetOf_lenOffset]; exact hbusy)
  · exact readValue_draw (by rw [targetOf_limbOffset r hi]; exact readIsDraw_limb_busy r hbusy hml)
  · obtain rfl | rfl | rfl | rfl | rfl := hoff <;> rfl

end Sys2Proof.Machine

/-! PROOFS. Limb accesses when idle (20_memory.md R80, R81): the limbs of a value (00_scope.md R13), and what replacing
one of them leaves of the others. -/

namespace Sys2Proof.Machine

/-! The limbs of a value. -/

theorem limb_eq_zero_of_nlimbs_le {v i : Nat} (h : nlimbs v ≤ i) : limb v i = 0 := by
  have hv : v < 2 ^ (64 * i) := (nlimbs_le_iff ((nlimbs_pos v).trans h)).1 h
  rw [limb, Nat.div_eq_of_lt hv, Nat.zero_mod]

theorem limbsValue_append_singleton (ds : List Nat) (d : Nat) :
    limbsValue (ds ++ [d]) = limbsValue ds + d * 2 ^ (64 * ds.length) := by
  induction ds with
  | nil => simp [limbsValue]
  | cons e ds ih =>
    rw [List.cons_append, limbsValue, limbsValue, ih, List.length_cons, Nat.mul_succ, Nat.pow_add]
    ring

/-- The first `n` limbs give the part of the value below limb `n`. -/
theorem limbsValue_map_limb (v n : Nat) : limbsValue ((List.range n).map (limb v)) = v % 2 ^ (64 * n) := by
  induction n with
  | zero => simp [limbsValue, Nat.mod_one]
  | succ n ih =>
    rw [List.range_succ, List.map_append, List.map_singleton, limbsValue_append_singleton, ih, mod_pow_succ_limb,
      List.length_map, List.length_range]

/-! A value with one limb replaced. -/

/-- The part of a value from limb `i` on, when limb `i` is replaced. -/
theorem replaceLimb_div (v i x : Nat) :
    replaceLimb v i x / 2 ^ (64 * i) = x + v / 2 ^ (64 * (i + 1)) * 2 ^ 64 := by
  have hlow : v % 2 ^ (64 * i) < 2 ^ (64 * i) := Nat.mod_lt _ (by positivity)
  calc replaceLimb v i x / 2 ^ (64 * i)
    _ = (v % 2 ^ (64 * i) + (x + v / 2 ^ (64 * (i + 1)) * 2 ^ 64) * 2 ^ (64 * i)) / 2 ^ (64 * i) := by
      rw [replaceLimb_eq]; ring_nf
    _ = x + v / 2 ^ (64 * (i + 1)) * 2 ^ 64 := by
      rw [Nat.add_mul_div_right _ _ (by positivity), Nat.div_eq_of_lt hlow, Nat.zero_add]

theorem replaceLimb_mod (v i x : Nat) : replaceLimb v i x % 2 ^ (64 * i) = v % 2 ^ (64 * i) := by
  rw [replaceLimb_eq, Nat.mul_succ, Nat.pow_add, Nat.mul_comm (2 ^ (64 * i)) (2 ^ 64), ← Nat.mul_assoc,
    Nat.add_mul_mod_self_right, Nat.add_mul_mod_self_right, Nat.mod_mod]

/-- Replacing limb `i` keeps the part of the value above it. -/
theorem replaceLimb_div_succ {x : Nat} (v i : Nat) (hx : x < 2 ^ 64) :
    replaceLimb v i x / 2 ^ (64 * (i + 1)) = v / 2 ^ (64 * (i + 1)) := by
  rw [Nat.mul_succ, Nat.pow_add, ← Nat.div_div_eq_div_mul, replaceLimb_div,
    Nat.add_mul_div_right _ _ (by decide), Nat.div_eq_of_lt hx, Nat.zero_add, Nat.mul_succ, Nat.pow_add]

theorem limb_replaceLimb_self {x : Nat} (v i : Nat) (hx : x < 2 ^ 64) : limb (replaceLimb v i x) i = x := by
  rw [limb, replaceLimb_div, Nat.add_mul_mod_self_right, Nat.mod_eq_of_lt hx]

/-- A limb below `i` is decided by the part of the value below limb `i`. -/
theorem limb_mod_pow {i j : Nat} (v : Nat) (h : j < i) : limb (v % 2 ^ (64 * i)) j = limb v j := by
  have hi : 2 ^ (64 * i) = 2 ^ (64 * j) * (2 ^ 64 * 2 ^ (64 * (i - (j + 1)))) := by
    rw [← Nat.pow_add, ← Nat.pow_add]; congr 1; omega
  rw [limb, hi, Nat.mod_mul_right_div_self, Nat.mod_mul_right_mod, limb]

/-- A limb from `i` on is decided by the part of the value from limb `i` on. -/
theorem limb_div_pow {i j : Nat} (v : Nat) (h : i ≤ j) : limb (v / 2 ^ (64 * i)) (j - i) = limb v j := by
  rw [limb, Nat.div_div_eq_div_mul, ← Nat.pow_add, ← Nat.mul_add, Nat.add_sub_cancel' h, limb]

theorem limb_replaceLimb_ne {x i j : Nat} (v : Nat) (hx : x < 2 ^ 64) (h : j ≠ i) :
    limb (replaceLimb v i x) j = limb v j := by
  obtain hlt | hgt := Nat.lt_or_gt_of_ne h
  · rw [← limb_mod_pow _ hlt, replaceLimb_mod, limb_mod_pow _ hlt]
  · rw [← limb_div_pow _ hgt, replaceLimb_div_succ v i hx, limb_div_pow _ hgt]

/-- Settles O12: an idle limb write is a register write of `replaceLimb`. -/
theorem limbWriteReplacesOneLimb : Obligations.LimbWriteReplacesOneLimb := by
  unfold Obligations.LimbWriteReplacesOneLimb
  intro s r i x hml hi hidle
  have hwrite := (hostWrite_limb r x hml hi).trans (writeLimb_idle r i x hidle)
  refine ⟨_, hwrite, rfl, ?_, fun j hj => ?_, fun q => reg_setReg_ne s _⟩
  · rw [reg_setReg_self, limb_replaceLimb_self _ _ x.isLt]
  · rw [reg_setReg_self, limb_replaceLimb_ne _ x.isLt hj]

/-- Settles O13: the limbs below the limb count give the value modulo a power of two that exceeds it. -/
theorem limbReadReturnsTheLimb : Obligations.LimbReadReturnsTheLimb := by
  unfold Obligations.LimbReadReturnsTheLimb
  intro s r i hml hi hidle
  rw [readValue_limb r hml hi hidle]
  refine ⟨?_, fun habove => ?_, ?_⟩
  · rw [BitVec.toNat_ofNat, Nat.mod_eq_of_lt (limb_lt _ _)]
  · rw [limb_eq_zero_of_nlimbs_le habove]; rfl
  · rw [limbsValue_map_limb, Nat.mod_eq_of_lt (lt_two_pow_nlimbs _)]

end Sys2Proof.Machine

/-! PROOFS. Accesses on the bus (20_memory.md): which are performed and which are bad (R70, R74), the record of bus
errors (60_exceptions.md R244), and what stops a step. -/

namespace Sys2Proof.Machine

/-! Accesses in the window and outside it (R70, R74, R84). -/

theorem admitted_eq_false_iff (a : Access) (c : Config) :
    a.admitted c = false ↔ a.width ≠ 64 ∨ (a.addr - c.base) % 8 ≠ 0 := by
  rw [Access.admitted, Bool.and_eq_false_iff, beq_eq_false_iff_ne, beq_eq_false_iff_ne]

theorem performAccess_bad {a : Access} {s : State} (hwin : inWindow s.cfg a.addr = true)
    (hbad : a.admitted s.cfg = false) :
    performAccess a s = .next (s.busError (a.addr - s.cfg.base) a.width) := by
  rw [performAccess, hwin, hbad]; rfl

theorem performAccess_outside {a : Access} {s : State} (h : inWindow s.cfg a.addr = false) :
    performAccess a s = .fault (.outsideWindow a.addr) := by
  rw [performAccess, h]; rfl

theorem inWindow_offset {off : Nat} (c : Config) (h : off < 0x20000) : inWindow c (c.base + off) = true := by
  rw [← Bool.not_eq_false, inWindow_eq_false_iff]
  omega

theorem admitted_offset {off : Nat} (c : Config) (k : AccessKind) (h : off % 8 = 0) :
    Access.admitted { addr := c.base + off, width := 64, kind := k } c = true := by
  simp [Access.admitted, h]

theorem performAccess_read_offset {off : Nat} (s : State) (hoff : off < 0x20000) (halign : off % 8 = 0) :
    performAccess { addr := s.cfg.base + off, width := 64, kind := .read } s = .next (s.hostRead off) := by
  rw [performAccess, inWindow_offset s.cfg hoff, admitted_offset s.cfg .read halign]
  simp

theorem performAccess_write_offset {off : Nat} (s : State) (x : Word) (hoff : off < 0x20000) (halign : off % 8 = 0) :
    performAccess { addr := s.cfg.base + off, width := 64, kind := .write x } s = .next (s.hostWrite off x) := by
  rw [performAccess, inWindow_offset s.cfg hoff, admitted_offset s.cfg (.write x) halign]
  simp

/-- Settles O10: an access at BASE plus an aligned offset is in the window and admitted. -/
theorem admittedAccessIsPerformed : Obligations.AdmittedAccessIsPerformed := by
  unfold Obligations.AdmittedAccessIsPerformed
  intro s off x rest hoff halign
  exact ⟨fun h => (step_cons h).trans (performAccess_read_offset { s with agenda := rest } hoff halign),
    fun h => (step_cons h).trans (performAccess_write_offset { s with agenda := rest } x hoff halign)⟩

/-! The record of bus errors along a step (60_exceptions.md R244). -/

theorem exec_busErrors {i : Instr} {s t : State} (h : exec i s = .next t) : t.busErrors = s.busErrors := by
  obtain ⟨r, hr⟩ := exec_eq_finish i s
  obtain ⟨w, _, rfl⟩ | ⟨e, _, rfl⟩ := finish_cases (hr ▸ h)
  · exact completeOk_busErrors s w
  · exact completeError_busErrors s e

theorem coreTurn_busErrors {s t : State} (h : coreTurn s = .next t) : t.busErrors = s.busErrors := by
  obtain ⟨_, hturn⟩ | ⟨_, _, _, _, hturn⟩ | ⟨_, i, _, _, hturn⟩ := coreTurn_cases s
  · cases hturn.symm.trans h; rfl
  · cases hturn.symm.trans h; exact completeError_busErrors s _
  · exact exec_busErrors (hturn.symm.trans h)

theorem unlessBusy_busErrors {s t : State} (h : t.busErrors = s.busErrors) :
    (s.unlessBusy t).busErrors = s.busErrors := by
  cases hb : s.busy with
  | true => rw [unlessBusy_busy t hb, dropWrite_busErrors]
  | false => rw [unlessBusy_idle t hb, h]

theorem writeCtrl_busErrors (s : State) (x : Word) : (s.writeCtrl x).busErrors = s.busErrors := by
  cases hx : x.getLsbD 6 with
  | true => rw [writeCtrl_reset s hx, hardReset_busErrors]
  | false => rw [writeCtrl_store s hx]

theorem hostWrite_busErrors (s : State) (off : Nat) (x : Word) : (s.hostWrite off x).busErrors = s.busErrors := by
  obtain h | ⟨_, h⟩ | ⟨_, h⟩ | ⟨_, h⟩ | ⟨_, h⟩ | ⟨r, i, _, _, h⟩ := hostWrite_cases s off x
  all_goals rw [h]
  · exact writeCtrl_busErrors s x
  · exact acknowledge_busErrors s x
  · exact unlessBusy_busErrors rfl
  · exact unlessBusy_busErrors rfl
  · exact unlessBusy_busErrors rfl

/-- An access adds at most its own bus error. -/
theorem performAccess_busErrors_suffix {a : Access} {s t : State} (h : performAccess a s = .next t) :
    s.busErrors <:+ t.busErrors := by
  obtain ⟨_, hp⟩ | ⟨_, _, hp⟩ | ⟨_, _, _, hp⟩ | ⟨x, _, _, _, hp⟩ := performAccess_cases a s
  all_goals cases hp.symm.trans h
  · exact List.suffix_cons _ _
  · rw [hostRead_busErrors]
  · rw [hostWrite_busErrors]

theorem perform_busErrors_suffix {e : Event} {s t : State} (h : perform e s = .next t) :
    s.busErrors <:+ t.busErrors := by
  cases e with
  | access a => exact performAccess_busErrors_suffix h
  | coreTurn => rw [coreTurn_busErrors h]
  | hardReset => cases h; rw [hardReset_busErrors]

theorem step_busErrors_suffix {s t : State} (h : step s = .next t) : s.busErrors <:+ t.busErrors := by
  cases hs : s.agenda with
  | nil => rw [coreTurn_busErrors ((step_nil hs).symm.trans h)]
  | cons e rest => exact perform_busErrors_suffix (s := { s with agenda := rest }) (step_cons hs ▸ h)

/-- Settles O9: a bad access only adds to the record, and no operation of a step takes from it. -/
theorem badAccessGetsBusErrorForGood : Obligations.BadAccessGetsBusErrorForGood := by
  unfold Obligations.BadAccessGetsBusErrorForGood
  refine ⟨fun s a rest hs hwin hbad => ?_, fun s t => step_busErrors_suffix⟩
  rw [step_cons hs]
  exact performAccess_bad (s := { s with agenda := rest }) hwin ((admitted_eq_false_iff a s.cfg).2 hbad)

/-! What stops a step (R70). -/

theorem performAccess_next {a : Access} {s : State} (h : inWindow s.cfg a.addr = true) :
    ∃ t, performAccess a s = .next t := by
  obtain ⟨hout, _⟩ | ⟨_, _, hp⟩ | ⟨_, _, _, hp⟩ | ⟨_, _, _, _, hp⟩ := performAccess_cases a s
  · rw [h] at hout; cases hout
  all_goals exact ⟨_, hp⟩

/-- A step goes on unless its event is an access outside the window. -/
theorem step_next_or_outside (s : State) :
    (∃ t, step s = .next t) ∨ ∃ a rest, s.agenda = .access a :: rest ∧ inWindow s.cfg a.addr = false := by
  cases hs : s.agenda with
  | nil => rw [step_nil hs]; exact .inl (coreTurn_next s)
  | cons e rest =>
    rw [step_cons hs]
    cases e with
    | access a =>
      cases hwin : inWindow s.cfg a.addr with
      | true => exact .inl (performAccess_next (s := { s with agenda := rest }) hwin)
      | false => exact .inr ⟨a, rest, rfl, hwin⟩
    | coreTurn => exact .inl (coreTurn_next _)
    | hardReset => exact .inl ⟨_, rfl⟩

/-- Settles O11: the CORE's turn, a reset and an access in the window all give a next state. -/
theorem stepStopsExactlyOutsideTheWindow : Obligations.StepStopsExactlyOutsideTheWindow := by
  unfold Obligations.StepStopsExactlyOutsideTheWindow
  refine ⟨fun s a rest hs hout => ?_, fun s hstop => ?_⟩
  · rw [step_cons hs]
    exact performAccess_outside ((inWindow_eq_false_iff s.cfg a.addr).2 hout)
  · obtain ⟨t, ht⟩ | ⟨a, rest, hs, hout⟩ := step_next_or_outside s
    · exact absurd ht (hstop t)
    · exact ⟨a, rest, hs, (inWindow_eq_false_iff s.cfg a.addr).1 hout⟩

end Sys2Proof.Machine

/-! PROOFS. The command word (30_encoding.md): decode and encode agree (R100, R101, R104), the decoder is strict (R106,
R108), and its rows are the printed masks (R112). -/

namespace Sys2Proof

/-! A command and its row and fields (R104, R108). -/

theorem opcodeOf_eq_some_iff {n : Nat} {op : Opcode} : opcodeOf n = some op ↔ n = op.code :=
  ⟨fun h => (code_of_opcodeOf h).symm, fun h => h ▸ opcodeOf_code op⟩

theorem Opcode.code_injective : Function.Injective Opcode.code := fun p q h =>
  Option.some.inj <| by rw [← opcodeOf_code p, h, opcodeOf_code q]

@[simp] theorem Instr.fields_z (i : Instr) : i.fields.z = 0 := by cases i <;> rfl

/-- The fields that a command does not fill are those its row calls SBZ. -/
theorem Instr.sbzClear_fields (i : Instr) : i.opcode.sbzClear i.fields = true := by cases i <;> rfl

theorem Instr.instr_fields (i : Instr) : i.opcode.instr i.fields = i := by cases i <;> rfl

@[simp] theorem Opcode.opcode_instr (op : Opcode) (f : Fields) : (op.instr f).opcode = op := by cases op <;> rfl

theorem Opcode.sbzClear_iff {op : Opcode} {f : Fields} :
    op.sbzClear f = true ↔ (op.uses.d || f.d == 0) = true ∧ (op.uses.e || f.e == 0) = true ∧
      (op.uses.a || f.a == 0) = true ∧ (op.uses.b || f.b == 0) = true ∧ (op.uses.m || f.m == 0) = true ∧ f.z = 0 := by
  simp only [Opcode.sbzClear, Bool.and_eq_true, beq_iff_eq, and_assoc]

/-- With its SBZ fields clear, a row's command fills every field as it stood: no field is lost. -/
theorem Opcode.fields_instr {op : Opcode} {f : Fields} (h : op.sbzClear f = true) : (op.instr f).fields = f := by
  obtain ⟨d, e, a, b, m, z⟩ := f
  obtain ⟨hd, he, ha, hb, hm, hz⟩ := Opcode.sbzClear_iff.1 h
  cases op <;> simp_all [Opcode.uses, Opcode.instr, Instr.fields]

/-! What the decoder accepts (R106). -/

theorem decode_eq_ok_iff {w : Word} {i : Instr} :
    decode w = .ok i ↔ bits w.toNat 63 32 = 0 ∧ ∃ op : Opcode, bits w.toNat 31 24 = op.code ∧
      op.sbzClear (fieldsOf w.toNat) = true ∧ op.instr (fieldsOf w.toNat) = i := by
  simp only [← opcodeOf_eq_some_iff, decode]
  by_cases hhigh : bits w.toNat 63 32 = 0
  · cases hop : opcodeOf (bits w.toNat 31 24) with
    | none => simp [hhigh]
    | some op => by_cases hsbz : op.sbzClear (fieldsOf w.toNat) = true <;> simp [hhigh, hsbz]
  · simp [hhigh]

theorem bits_high_eq_zero_iff (w : Word) : bits w.toNat 63 32 = 0 ↔ w.toNat < 2 ^ 32 := by
  have := w.isLt
  unfold bits; omega

theorem decode_commandValue (i : Instr) : decode (commandValue i) = .ok i := by
  have hfields : fieldsOf (commandValue i).toNat = i.fields := by
    rw [commandValue_toNat, fieldsOf_packWord, ← Instr.fields_z i]
  rw [decode_eq_ok_iff, bits_high_eq_zero_iff, hfields, commandValue_toNat]
  exact ⟨packWord_lt _ _, i.opcode, bits_opc_packWord _ _, i.sbzClear_fields, i.instr_fields⟩

/-- Settles O21: the packed word gives back its row and its fields, and these give back the command. -/
theorem decodeOfEncodeIsTheCommand : Obligations.DecodeOfEncodeIsTheCommand := by
  unfold Obligations.DecodeOfEncodeIsTheCommand
  intro i
  rw [Machine.decodeBytes_bytesOfWord, decode_commandValue]

/-- A 32-bit word is the sum of R101 of its own fields. -/
theorem packWord_fieldsOf {v : Nat} {op : Opcode} (hv : v < 2 ^ 32) (hopc : bits v 31 24 = op.code)
    (hz : (fieldsOf v).z = 0) : packWord op (fieldsOf v) = v := by
  have hz : v % 16 = 0 := by simpa [fieldsOf, Fin.ext_iff, regField_val] using hz
  simp only [packWord, ← hopc, fieldsOf, regField_val, bits]
  omega

/-- Settles O22: an accepted word is the packing of its fields, which are all its command's own. -/
theorem decodedValueIsItsEncoding : Obligations.DecodedValueIsItsEncoding := by
  unfold Obligations.DecodedValueIsItsEncoding
  intro w i h
  obtain ⟨hhigh, op, hopc, hsbz, rfl⟩ := decode_eq_ok_iff.1 h
  obtain ⟨-, -, -, -, -, hz⟩ := Opcode.sbzClear_iff.1 hsbz
  apply BitVec.eq_of_toNat_eq
  rw [commandValue_toNat, Opcode.opcode_instr, Opcode.fields_instr hsbz,
    packWord_fieldsOf ((bits_high_eq_zero_iff w).1 hhigh) hopc hz]

/-! The printed masks (R112). A mask is compared with a word field by field, as R101 cuts the word. -/

theorem bits_and (v m hi lo : Nat) : bits (v &&& m) hi lo = bits v hi lo &&& bits m hi lo := by
  simp only [bits, Nat.and_div_two_pow, Nat.and_mod_two_pow]

/-- A 32-bit word is its fields. -/
theorem eq_iff_bits {v k : Nat} (hv : v < 2 ^ 32) (hk : k < 2 ^ 32) :
    v = k ↔ bits v 31 24 = bits k 31 24 ∧ bits v 23 20 = bits k 23 20 ∧ bits v 19 16 = bits k 19 16 ∧
      bits v 15 12 = bits k 15 12 ∧ bits v 11 8 = bits k 11 8 ∧ bits v 7 4 = bits k 7 4 ∧
      bits v 3 0 = bits k 3 0 := by
  unfold bits; omega

/-- What a mask holds at a 4-bit field: zero where the row uses the field, ones where it is SBZ. -/
def fieldMask (used : Bool) : Nat := if used then 0 else 0xF

theorem Opcode.mask_lt (op : Opcode) : op.mask < 2 ^ 32 := by cases op <;> decide

theorem Opcode.mask_fields (op : Opcode) :
    bits op.mask 31 24 = 0xFF ∧ bits op.mask 23 20 = fieldMask op.uses.d ∧ bits op.mask 19 16 = fieldMask op.uses.e ∧
      bits op.mask 15 12 = fieldMask op.uses.a ∧ bits op.mask 11 8 = fieldMask op.uses.b ∧
      bits op.mask 7 4 = fieldMask op.uses.m ∧ bits op.mask 3 0 = fieldMask false := by
  cases op <;> decide

theorem Opcode.matchWord_lt (op : Opcode) : op.matchWord < 2 ^ 32 := by cases op <;> decide

theorem Opcode.matchWord_fields (op : Opcode) :
    bits op.matchWord 31 24 = op.code ∧ bits op.matchWord 23 20 = 0 ∧ bits op.matchWord 19 16 = 0 ∧
      bits op.matchWord 15 12 = 0 ∧ bits op.matchWord 11 8 = 0 ∧ bits op.matchWord 7 4 = 0 ∧
      bits op.matchWord 3 0 = 0 := by
  cases op <;> decide

theorem bits_opc_and_mask (v : Nat) : bits v 31 24 &&& 0xFF = bits v 31 24 := by
  rw [Nat.and_two_pow_sub_one_eq_mod _ 8]; unfold bits; omega

/-- A field under the mask: anything if the row uses it, zero if it is SBZ. -/
theorem bits_and_fieldMask_eq_zero_iff (v : Nat) (used : Bool) (lo : Nat) :
    bits v (lo + 3) lo &&& fieldMask used = 0 ↔ (used || regField v lo == 0) = true := by
  cases used with
  | true => simp [fieldMask]
  | false =>
    have hmask : bits v (lo + 3) lo &&& fieldMask false = (regField v lo).val :=
      Nat.and_two_pow_sub_one_eq_mod _ 4
    rw [hmask, Fin.val_eq_zero_iff, Bool.false_or, beq_iff_eq]

/-- A word is in a row's mask and match exactly when it passes the decoder's checks for that row. -/
theorem and_mask_eq_matchWord_iff (v : Nat) (op : Opcode) :
    v &&& op.mask = op.matchWord ↔ bits v 31 24 = op.code ∧ op.sbzClear (fieldsOf v) = true := by
  obtain ⟨hopc, hd, he, ha, hb, hm, hz⟩ := op.mask_fields
  obtain ⟨hopc', hd', he', ha', hb', hm', hz'⟩ := op.matchWord_fields
  rw [eq_iff_bits (Nat.and_lt_two_pow v op.mask_lt) op.matchWord_lt, Opcode.sbzClear_iff]
  simp only [bits_and, hopc, hd, he, ha, hb, hm, hz, hopc', hd', he', ha', hb', hm', hz', bits_opc_and_mask]
  have hfield := bits_and_fieldMask_eq_zero_iff v
  exact and_congr Iff.rfl <| and_congr (hfield _ 20) <| and_congr (hfield _ 16) <| and_congr (hfield _ 12) <|
    and_congr (hfield _ 8) <| and_congr (hfield _ 4) <| (hfield false 0).trans beq_iff_eq

/-- A printed row holds the mask and the match of its opcode. -/
theorem eq_of_mem_printedMasks {row : Opcode × Nat × Nat} (h : row ∈ Machine.printedMasks) :
    row = (row.1, row.1.matchWord, row.1.mask) := by
  revert row; decide

theorem exists_decode_opcode_iff {w : Word} (hw : w.toNat < 2 ^ 32) (op : Opcode) :
    (∃ i, decode w = .ok i ∧ i.opcode = op) ↔
      bits w.toNat 31 24 = op.code ∧ op.sbzClear (fieldsOf w.toNat) = true := by
  constructor
  · rintro ⟨_, hdec, rfl⟩
    obtain ⟨-, op, hopc, hsbz, rfl⟩ := decode_eq_ok_iff.1 hdec
    rw [Opcode.opcode_instr]
    exact ⟨hopc, hsbz⟩
  · rintro ⟨hopc, hsbz⟩
    exact ⟨_, decode_eq_ok_iff.2 ⟨(bits_high_eq_zero_iff w).2 hw, op, hopc, hsbz, rfl⟩, op.opcode_instr _⟩

/-- Settles O23: mask and match say what the decoder checks, and two rows that one word matches have the same code. -/
theorem decoderFollowsThePrintedMasks : Obligations.DecoderFollowsThePrintedMasks := by
  unfold Obligations.DecoderFollowsThePrintedMasks
  refine ⟨fun w row hw hrow => ?_, fun w p q hp hq hwp hwq => ?_⟩
  · rw [eq_of_mem_printedMasks hrow, and_mask_eq_matchWord_iff, exists_decode_opcode_iff hw]
  · rw [eq_of_mem_printedMasks hp] at hwp ⊢
    rw [eq_of_mem_printedMasks hq] at hwq ⊢
    have hcode := ((and_mask_eq_matchWord_iff w p.1).1 hwp).1.symm.trans ((and_mask_eq_matchWord_iff w q.1).1 hwq).1
    rw [Opcode.code_injective hcode]

theorem decodeTableWord_packWord (i : Instr) : decodeTableWord 32 (packWord i.opcode i.fields) = some i := by
  have hvalue : BitVec.ofNat 64 (packWord i.opcode i.fields % 2 ^ 32) = commandValue i := by
    apply BitVec.eq_of_toNat_eq
    have := packWord_lt i.opcode i.fields
    rw [commandValue_toNat, BitVec.toNat_ofNat]
    omega
  rw [decodeTableWord, hvalue, Machine.decodeBytes_bytesOfWord, decode_commandValue]

/-- Settles O25: each printed word is the packing of its command. -/
theorem printedWordsDecode : Obligations.PrintedWordsDecode := by
  unfold Obligations.PrintedWordsDecode
  exact ⟨decodeTableWord_packWord .nop, decodeTableWord_packWord (.cmp 2 0), decodeTableWord_packWord (.add 2 0 1),
    decodeTableWord_packWord (.div 2 3 0 1), decodeTableWord_packWord (.modpow 5 3 4 2),
    decodeTableWord_packWord (.egcd 2 3 4 0 1), decodeTableWord_packWord (.modinv 10 7 5),
    decodeTableWord_packWord (.lds 1)⟩

end Sys2Proof

/-! PROOFS. The frame of the commands (30_encoding.md R105; 10_state.md R42): what a completion writes, and what stays,
in the state and in the register window (20_memory.md R78). -/

namespace Sys2Proof.Machine

/-! What a command stages (R105, R109, R225). -/

/-- `w` names the destinations of `i` in order, and flags only if `i` writes them. -/
structure IsStagedBy (i : Instr) (w : Staged) : Prop where
  dests : w.writes.map Prod.fst = i.dests
  cr : (∀ a b, i ≠ .cmp a b) → w.cr = none
  signs : (∀ g x y a b, i ≠ .egcd g x y a b) → w.signs = none

theorem isStagedBy_regs {i : Instr} {ws : List (Reg × Nat)} (h : ws.map Prod.fst = i.dests) :
    IsStagedBy i (.regs ws) := ⟨h, fun _ => rfl, fun _ => rfl⟩

theorem eq_of_stageIfFits {s : State} {d : Reg} {x : Nat} {w : Staged} (h : stageIfFits s d x = .ok w) :
    w = .regs [(d, x)] := by
  obtain ⟨_, hok⟩ | ⟨_, herr⟩ := stageIfFits_cases s d x
  · cases hok.symm.trans h; rfl
  · cases herr.symm.trans h

theorem eq_of_stageIfNonzero {m : Nat} {w w' : Staged} (h : stageIfNonzero m w = .ok w') : w' = w := by
  by_cases hm : m = 0
  · subst hm; cases h
  · rw [stageIfNonzero_pos w hm] at h; cases h; rfl

theorem eq_of_stageIfDistinct {distinct : Bool} {r : Except CommandError Staged} {w : Staged}
    (h : stageIfDistinct distinct r = .ok w) : r = .ok w := by
  cases distinct with
  | false => cases h
  | true => exact h

theorem eq_of_modinvResult {d : Reg} {a m : Nat} {w : Staged} (h : modinvResult d a m = .ok w) :
    ∃ x, w = .regs [(d, x)] := by
  unfold modinvResult at h
  dsimp only at h
  split_ifs at h
  · cases h; exact ⟨_, rfl⟩
  · exact ⟨_, eq_of_stageIfNonzero h⟩

/-- A successful command stages one write for each of its destinations, CR for CMP and the signs for EGCD. -/
theorem exec_isStagedBy (i : Instr) (s : State) :
    ∃ r, exec i s = s.finish r ∧ ∀ w, r = .ok w → IsStagedBy i w := by
  cases i with
  | nop => exact ⟨_, rfl, fun | _, rfl => isStagedBy_regs rfl⟩
  | cmp a b => exact ⟨_, rfl, fun | _, rfl => ⟨rfl, fun h => absurd rfl (h a b), fun _ => rfl⟩⟩
  | add d a b => exact ⟨_, rfl, fun w h => eq_of_stageIfFits h ▸ isStagedBy_regs rfl⟩
  | sub d a b =>
    refine ⟨_, rfl, fun w h => ?_⟩
    split_ifs at h
    cases h; exact isStagedBy_regs rfl
  | muls d a => exact ⟨_, rfl, fun w h => eq_of_stageIfFits h ▸ isStagedBy_regs rfl⟩
  | mul d a b => exact ⟨_, rfl, fun w h => eq_of_stageIfFits h ▸ isStagedBy_regs rfl⟩
  | div q r a b =>
    exact ⟨_, rfl, fun w h => eq_of_stageIfNonzero (eq_of_stageIfDistinct h) ▸ isStagedBy_regs rfl⟩
  | mod d a m => exact ⟨_, rfl, fun w h => eq_of_stageIfNonzero h ▸ isStagedBy_regs rfl⟩
  | modpow d base exp m => exact ⟨_, rfl, fun w h => eq_of_stageIfNonzero h ▸ isStagedBy_regs rfl⟩
  | modmul d a b m => exact ⟨_, rfl, fun w h => eq_of_stageIfNonzero h ▸ isStagedBy_regs rfl⟩
  | gcd d a b => exact ⟨_, rfl, fun | _, rfl => isStagedBy_regs rfl⟩
  | egcd g x y a b =>
    refine ⟨_, rfl, fun w h => ?_⟩
    cases eq_of_stageIfDistinct h
    exact ⟨rfl, fun _ => rfl, fun h => absurd rfl (h g x y a b)⟩
  | modinv d a m =>
    refine ⟨_, rfl, fun w h => ?_⟩
    obtain ⟨x, rfl⟩ := eq_of_modinvResult h
    exact isStagedBy_regs rfl
  | clr d => exact ⟨_, rfl, fun | _, rfl => isStagedBy_regs rfl⟩
  | mov d a => exact ⟨_, rfl, fun | _, rfl => isStagedBy_regs rfl⟩
  | lds d => exact ⟨_, rfl, fun | _, rfl => isStagedBy_regs rfl⟩

/-! What stays (R105). -/

/-- Every next state a command gives is a completion with what the command may stage, or with an error. -/
theorem exec_cases {i : Instr} {s t : State} (h : exec i s = .next t) :
    (∃ w, IsStagedBy i w ∧ t = s.completeOk w) ∨ ∃ e, t = s.completeError e := by
  obtain ⟨r, hr, hstaged⟩ := exec_isStagedBy i s
  obtain ⟨w, hw, ht⟩ | ⟨e, _, ht⟩ := finish_cases (hr ▸ h)
  · exact .inl ⟨w, hstaged w hw, ht⟩
  · exact .inr ⟨e, ht⟩

theorem completeOk_reg_other {i : Instr} {w : Staged} {r : Reg} (s : State) (hw : IsStagedBy i w)
    (hr : r ∉ i.dests) : (s.completeOk w).reg r = s.reg r :=
  applyWrites_other w.writes s.v r fun _ hp e => hr (hw.dests ▸ e ▸ List.mem_map_of_mem hp)

/-- Settles O53: a completion touches the staged registers and flags, DONE, ERR, ERRCODE and INFLIGHT. -/
theorem commandFrame : Obligations.CommandFrame := by
  unfold Obligations.CommandFrame
  intro i s t h
  obtain ⟨w, hw, rfl⟩ | ⟨e, rfl⟩ := exec_cases h
  · refine ⟨fun r => completeOk_reg_other s hw, fun hcmp => ?_, fun hegcd => ?_, rfl, rfl, rfl, rfl, rfl, rfl, rfl, rfl⟩
    · rw [completeOk_cr, hw.cr hcmp]; rfl
    · rw [completeOk_xneg, completeOk_yneg, hw.signs hegcd]; exact ⟨rfl, rfl⟩
  · exact ⟨fun _ _ => rfl, fun _ => rfl, fun _ => ⟨rfl, rfl⟩, rfl, rfl, rfl, rfl, rfl, rfl, rfl, rfl⟩

theorem exec_idle {i : Instr} {s t : State} (h : exec i s = .next t) : t.busy = false := by
  obtain ⟨w, _, rfl⟩ | ⟨e, rfl⟩ := exec_cases h
  · exact completeOk_busy s w
  · exact completeError_busy s e

/-- What the window shows at a target but STATUS is a function of the configuration, CTRL, SCALAR and its register. -/
theorem registerValue_congr {s t : State} {tgt : Target} (hcfg : t.cfg = s.cfg) (hctrl : t.ctrl = s.ctrl)
    (hscalar : t.scalar = s.scalar) (hstatus : tgt ≠ .status)
    (hreg : ∀ r, (tgt = .len r ∨ ∃ k, tgt = .limb r k) → t.reg r = s.reg r) :
    t.registerValue tgt = s.registerValue tgt := by
  cases tgt with
  | status => exact absurd rfl hstatus
  | len r => simp only [State.registerValue, hreg r (.inl rfl)]
  | limb r k => simp only [State.registerValue, hreg r (.inr ⟨k, rfl⟩), hcfg]
  | _ => simp only [State.registerValue, hcfg, hctrl, hscalar]

/-- Settles O54: both reads are exact, and the frame of O53 holds everything they show. -/
theorem commandFrameInTheWindow : Obligations.CommandFrameInTheWindow := by
  unfold Obligations.CommandFrameInTheWindow
  intro i s t off h hoff hdests
  obtain ⟨hregs, -, -, -, hscalar, hctrl, hcfg, -⟩ := commandFrame i s t h
  rw [readValue_exact (readIsDraw_idle _ (exec_idle h)), readValue_exact (readIsDraw_idle _ rfl)]
  refine registerValue_congr hcfg hctrl hscalar (fun e => hoff ((targetOf_eq_status_iff off).1 e)) ?_
  rintro r (hlen | ⟨k, hlimb⟩)
  · exact hregs r fun hr => (hdests r hr).1 hlen
  · exact hregs r fun hr => (hdests r hr).2 k hlimb

end Sys2Proof.Machine

/-! PROOFS. The limb loops from the low end (41_arithmetic_kernel.md): the comparison (R131), the ripple-carry adder
(R140) and the borrow-propagating subtractor (R141). After `n` turns each is an equation about the operands modulo
`2 ^ (64 * n)`, the parts it has read. -/

namespace Sys2Proof.Machine

theorem two_pow_limb_succ (n : Nat) : 2 ^ (64 * (n + 1)) = 2 ^ 64 * 2 ^ (64 * n) := by
  rw [← Nat.pow_add]; congr 1; omega

theorem mod_two_pow_of_nlimbs_le {v n : Nat} (h : nlimbs v ≤ n) : v % 2 ^ (64 * n) = v :=
  Nat.mod_eq_of_lt ((nlimbs_le_iff ((nlimbs_pos v).trans h)).1 h)

theorem mod_two_pow_nlimbs (v : Nat) : v % 2 ^ (64 * nlimbs v) = v := mod_two_pow_of_nlimbs_le le_rfl

/-- The higher limb decides, whatever stands below it. -/
theorem add_mul_lt_add_mul {x y p q m : Nat} (hx : x < m) (h : p < q) : x + p * m < y + q * m := by
  have hle : (p + 1) * m ≤ q * m := Nat.mul_le_mul_right m h
  rw [Nat.add_mul, Nat.one_mul] at hle
  omega

/-- A number of `n` digits and one more digit on top. -/
theorem add_digit_lt {x d n : Nat} (hx : x < 2 ^ (64 * n)) (hd : d < 2 ^ 64) :
    x + d * 2 ^ (64 * n) < 2 ^ (64 * (n + 1)) := by
  rw [two_pow_limb_succ, ← Nat.zero_add (2 ^ 64 * _)]
  exact add_mul_lt_add_mul hx hd

/-! Comparison (R131). -/

/-- The comparison of two numbers, in the terms of CR. -/
def numericCompare (a b : Nat) : CompareResult := if a < b then .less else if a = b then .equal else .greater

theorem numericCompare_of_lt {a b : Nat} (h : a < b) : numericCompare a b = .less := if_pos h

theorem numericCompare_of_gt {a b : Nat} (h : b < a) : numericCompare a b = .greater := by
  rw [numericCompare, if_neg (by omega), if_neg (by omega)]

/-- Adding the same number on both sides does not change the comparison. -/
theorem numericCompare_add_right (a b c : Nat) : numericCompare (a + c) (b + c) = numericCompare a b := by
  simp only [numericCompare, Nat.add_lt_add_iff_right, Nat.add_right_cancel_iff]

/-- The limb loop compares the parts of the values below limb `n`. -/
theorem compareLimbs_eq (a b n : Nat) :
    compareLimbs a b n = numericCompare (a % 2 ^ (64 * n)) (b % 2 ^ (64 * n)) := by
  induction n with
  | zero => simp [compareLimbs, numericCompare, Nat.mod_one]
  | succ n ih =>
    have hpos : 0 < 2 ^ (64 * n) := by positivity
    rw [compareLimbs, mod_pow_succ_limb, mod_pow_succ_limb]
    split_ifs with hlt hgt
    · exact (numericCompare_of_lt (add_mul_lt_add_mul (Nat.mod_lt a hpos) hlt)).symm
    · exact (numericCompare_of_gt (add_mul_lt_add_mul (Nat.mod_lt b hpos) hgt)).symm
    · rw [ih, show limb a n = limb b n by omega, numericCompare_add_right]

theorem lt_of_nlimbs_lt {a b : Nat} (h : nlimbs a < nlimbs b) : a < b :=
  Nat.lt_of_not_le fun hle => absurd (nlimbs_mono hle) (by omega)

theorem compareValues_eq (a b : Nat) : compareValues a b = numericCompare a b := by
  unfold compareValues
  split_ifs with hlt hgt
  · exact (numericCompare_of_lt (lt_of_nlimbs_lt hlt)).symm
  · exact (numericCompare_of_gt (lt_of_nlimbs_lt hgt)).symm
  · rw [compareLimbs_eq, mod_two_pow_nlimbs, mod_two_pow_of_nlimbs_le (by omega)]

/-! The ripple-carry adder (R140). -/

theorem rippleLoop_carry_le_one (a b n : Nat) : (rippleLoop a b n).2 ≤ 1 := by
  induction n with
  | zero => exact Nat.zero_le 1
  | succ n ih =>
    have ha := limb_lt a n
    have hb := limb_lt b n
    simp only [rippleLoop]
    omega

theorem rippleLoop_digits_lt (a b n : Nat) : (rippleLoop a b n).1 < 2 ^ (64 * n) := by
  induction n with
  | zero => exact Nat.one_pos
  | succ n ih => exact add_digit_lt ih (Nat.mod_lt _ (by decide))

/-- The digits and the carry of the chain stand for the sum of the limbs read. -/
theorem rippleLoop_value (a b n : Nat) :
    (rippleLoop a b n).1 + (rippleLoop a b n).2 * 2 ^ (64 * n) = a % 2 ^ (64 * n) + b % 2 ^ (64 * n) := by
  induction n with
  | zero => simp [rippleLoop, Nat.mod_one]
  | succ n ih =>
    have hdigit := Nat.div_add_mod (limb a n + limb b n + (rippleLoop a b n).2) (2 ^ 64)
    simp only [rippleLoop]
    generalize (limb a n + limb b n + (rippleLoop a b n).2) / 2 ^ 64 = c at hdigit ⊢
    generalize (limb a n + limb b n + (rippleLoop a b n).2) % 2 ^ 64 = d at hdigit ⊢
    rw [mod_pow_succ_limb, mod_pow_succ_limb, two_pow_limb_succ]
    linear_combination ih + 2 ^ (64 * n) * hdigit

theorem rippleAdd_eq (a b : Nat) : rippleAdd a b = a + b := by
  have hcarry := rippleLoop_carry_le_one a b (max (nlimbs a) (nlimbs b))
  have hvalue := rippleLoop_value a b (max (nlimbs a) (nlimbs b))
  rw [mod_two_pow_of_nlimbs_le (le_max_left _ _), mod_two_pow_of_nlimbs_le (le_max_right _ _)] at hvalue
  simp only [rippleAdd]
  split_ifs with hone
  · rwa [hone, Nat.one_mul] at hvalue
  · rwa [show (rippleLoop a b _).2 = 0 by omega, Nat.zero_mul] at hvalue

/-- A sum that leaves `n` limbs leaves them by the carry. -/
theorem rippleLoop_carry_of_overflow {a b n : Nat} (ha : nlimbs a ≤ n) (hb : nlimbs b ≤ n)
    (hsum : n < nlimbs (a + b)) : (rippleLoop a b n).2 = 1 := by
  have hn : 1 ≤ n := (nlimbs_pos a).trans ha
  have hbig : 2 ^ (64 * n) ≤ a + b := Nat.le_of_not_lt fun h => absurd ((nlimbs_le_iff hn).2 h) (by omega)
  have hcarry := rippleLoop_carry_le_one a b n
  have hdigits := rippleLoop_digits_lt a b n
  have hvalue := rippleLoop_value a b n
  rw [mod_two_pow_of_nlimbs_le ha, mod_two_pow_of_nlimbs_le hb] at hvalue
  by_contra hne
  rw [show (rippleLoop a b n).2 = 0 by omega] at hvalue
  omega

/-- Settles O44: the chain's equation at the limb count of the longer operand. -/
theorem rippleAdderIsExact : Obligations.RippleAdderIsExact := by
  unfold Obligations.RippleAdderIsExact
  exact fun a b => ⟨rippleAdd_eq a b, rippleLoop_carry_le_one a b⟩

/-! The borrow-propagating subtractor (R141). -/

theorem borrowLoop_borrow_le_one (a b n : Nat) : (borrowLoop a b n).2 ≤ 1 := by
  cases n with
  | zero => exact Nat.zero_le 1
  | succ n => simp only [borrowLoop]; split_ifs <;> omega

/-- One turn's digit: the wrapped difference, put right by the borrow it hands on. -/
theorem borrow_digit {x y w : Nat} (hx : x < 2 ^ 64) (hy : y < 2 ^ 64) (hw : w ≤ 1) :
    (((x : Int) - y - w) % 2 ^ 64).toNat + y + w = x + (if (x : Int) - y - w < 0 then 1 else 0) * 2 ^ 64 := by
  split_ifs <;> omega

theorem borrowLoop_digits_lt (a b n : Nat) : (borrowLoop a b n).1 < 2 ^ (64 * n) := by
  induction n with
  | zero => exact Nat.one_pos
  | succ n ih => exact add_digit_lt ih (by omega)

/-- The digits of the chain are the difference of the limbs read, wrapped once if a borrow is left. -/
theorem borrowLoop_value (a b n : Nat) :
    (borrowLoop a b n).1 + b % 2 ^ (64 * n) = a % 2 ^ (64 * n) + (borrowLoop a b n).2 * 2 ^ (64 * n) := by
  induction n with
  | zero => simp [borrowLoop, Nat.mod_one]
  | succ n ih =>
    have hdigit := borrow_digit (limb_lt a n) (limb_lt b n) (borrowLoop_borrow_le_one a b n)
    rw [mod_pow_succ_limb, mod_pow_succ_limb, two_pow_limb_succ]
    simp only [borrowLoop]
    linear_combination ih + 2 ^ (64 * n) * hdigit

/-- Settles O45: a borrow left over would lift the digits to `2 ^ (64 * nlimbs a)`. -/
theorem borrowSubtractorIsExact : Obligations.BorrowSubtractorIsExact := by
  unfold Obligations.BorrowSubtractorIsExact
  intro a b hle
  have hdigits := borrowLoop_digits_lt a b (nlimbs a)
  have hvalue := borrowLoop_value a b (nlimbs a)
  rw [mod_two_pow_nlimbs, mod_two_pow_of_nlimbs_le (nlimbs_mono hle)] at hvalue
  have hborrow : (borrowLoop a b (nlimbs a)).2 = 0 := by
    by_contra hne
    have hone := borrowLoop_borrow_le_one a b (nlimbs a)
    rw [show (borrowLoop a b (nlimbs a)).2 = 1 by omega] at hvalue
    omega
  refine ⟨?_, hborrow⟩
  rw [hborrow] at hvalue
  unfold borrowSub
  omega

end Sys2Proof.Machine

/-! PROOFS. Long division (41_arithmetic_kernel.md R143): the digit search, and the loop over the dividend's limbs. -/

namespace Sys2Proof.Machine

/-- From a digit that is not too large the search finds the largest one in its range. -/
theorem digitSearch_spec {b r : Nat} (k : Nat) {d : Nat} (hd : d * b ≤ r) :
    digitSearch b r k d < d + 2 ^ k ∧ digitSearch b r k d * b ≤ r ∧
      ∀ x, x < d + 2 ^ k → x * b ≤ r → x ≤ digitSearch b r k d := by
  induction k generalizing d with
  | zero => exact ⟨by simp [digitSearch], hd, fun x hx _ => by simp only [digitSearch]; omega⟩
  | succ k ih =>
    rw [digitSearch, Nat.pow_succ]
    split_ifs with hset
    · obtain ⟨hlt, hle, hmax⟩ := ih hset
      exact ⟨by omega, hle, fun x hx => hmax x (by omega)⟩
    · obtain ⟨hlt, hle, hmax⟩ := ih hd
      refine ⟨by omega, hle, fun x hx hxr => hmax x ?_ hxr⟩
      by_contra hge
      exact hset ((Nat.mul_le_mul_right b (by omega)).trans hxr)

theorem quotientDigit_spec (b r : Nat) :
    quotientDigit b r < 2 ^ 64 ∧ quotientDigit b r * b ≤ r ∧
      ∀ d, d < 2 ^ 64 → d * b ≤ r → d ≤ quotientDigit b r := by
  have h := digitSearch_spec (b := b) (r := r) 64 (d := 0) (by omega)
  rwa [Nat.zero_add] at h

/-- Where the quotient is a digit, the largest digit is the quotient. -/
theorem quotientDigit_eq_div {b r : Nat} (hb : 1 ≤ b) (hr : r < 2 ^ 64 * b) : quotientDigit b r = r / b := by
  obtain ⟨_, hle, hmax⟩ := quotientDigit_spec b r
  have hdiv : r / b < 2 ^ 64 := Nat.div_lt_of_lt_mul (by rwa [Nat.mul_comm])
  exact Nat.le_antisymm ((Nat.le_div_iff_mul_le hb).2 hle) (hmax _ hdiv (Nat.div_mul_le_self r b))

/-- One turn of the division of `r * 2 ^ 64 * m + l * m + x`: the quotient of the head, then its remainder goes on. -/
theorem head_div_mod (r l x m b : Nat) :
    r * (2 ^ 64 * m) + (x + l * m) = (r * 2 ^ 64 + l) % b * m + x + b * ((r * 2 ^ 64 + l) / b * m) := by
  have hhead := Nat.div_add_mod (r * 2 ^ 64 + l) b
  generalize (r * 2 ^ 64 + l) / b = q at hhead ⊢
  generalize (r * 2 ^ 64 + l) % b = t at hhead ⊢
  linear_combination m * hhead.symm

theorem longDivLoop_zero (a b q r : Nat) : longDivLoop a b 0 q r = (q, r) := rfl

/-- The loop's equation for one turn, stated between functions of `q` and `r`: with `q` and `r` applied, the kernel
would evaluate the digit search in its check of `rfl`. -/
theorem longDivLoop_turn (a b n : Nat) :
    longDivLoop a b (n + 1) = fun q r =>
      longDivLoop a b n (q + quotientDigit b (r * 2 ^ 64 + limb a n) * 2 ^ (64 * n))
        (r * 2 ^ 64 + limb a n - quotientDigit b (r * 2 ^ 64 + limb a n) * b) := rfl

/-- One turn of the loop takes the quotient of the remainder so far and the next limb. -/
theorem longDivLoop_succ {a b : Nat} (n q : Nat) {r : Nat} (hr : r < b) :
    longDivLoop a b (n + 1) q r =
      longDivLoop a b n (q + (r * 2 ^ 64 + limb a n) / b * 2 ^ (64 * n)) ((r * 2 ^ 64 + limb a n) % b) := by
  have hlimb := limb_lt a n
  have hdigit : quotientDigit b (r * 2 ^ 64 + limb a n) = (r * 2 ^ 64 + limb a n) / b :=
    quotientDigit_eq_div (Nat.one_le_of_lt hr) (by omega)
  rw [longDivLoop_turn]
  dsimp only
  rw [hdigit, Nat.mod_eq_sub_div_mul]

/-- The rest of the loop divides the remainder so far, followed by the limbs not yet read. -/
theorem longDivLoop_eq {a b : Nat} (n q : Nat) {r : Nat} (hr : r < b) :
    longDivLoop a b n q r =
      (q + (r * 2 ^ (64 * n) + a % 2 ^ (64 * n)) / b, (r * 2 ^ (64 * n) + a % 2 ^ (64 * n)) % b) := by
  induction n generalizing q r with
  | zero => simp [longDivLoop_zero, Nat.mod_one, Nat.div_eq_of_lt hr, Nat.mod_eq_of_lt hr]
  | succ n ih =>
    have hb : 0 < b := Nat.zero_lt_of_lt hr
    rw [longDivLoop_succ n q hr, ih _ (Nat.mod_lt _ hb), mod_pow_succ_limb, two_pow_limb_succ,
      head_div_mod r (limb a n), Nat.add_mul_div_left _ _ hb, Nat.add_mul_mod_self_left, Nat.add_assoc,
      Nat.add_comm (_ / b * _)]

/-- Settles O47: the loop's equation from quotient and remainder zero, over all limbs of the dividend. -/
theorem longDivisionIsExact : Obligations.LongDivisionIsExact := by
  unfold Obligations.LongDivisionIsExact
  refine fun a b hb => ⟨?_, quotientDigit_spec b⟩
  rw [longDiv, longDivLoop_eq _ _ hb, mod_two_pow_nlimbs, Nat.zero_mul, Nat.zero_add, Nat.zero_add]

end Sys2Proof.Machine

/-! PROOFS. The schoolbook multiplier (41_arithmetic_kernel.md R142): what each turn of its two loops keeps of the
accumulator array. -/

namespace Sys2Proof.Machine

/-! The accumulator array. -/

/-- Every entry of the accumulator array is a 64-bit digit. -/
def AreDigits (ds : List Nat) : Prop := ∀ d ∈ ds, d < 2 ^ 64

theorem areDigits_set {ds : List Nat} (k : Nat) {x : Nat} (h : AreDigits ds) (hx : x < 2 ^ 64) :
    AreDigits (ds.set k x) := fun _ hd => (List.mem_or_eq_of_mem_set hd).elim (h _) (· ▸ hx)

theorem areDigits_replicate_zero (n : Nat) : AreDigits (List.replicate n 0) := fun _ hd => by
  rw [List.eq_of_mem_replicate hd]; decide

theorem getD_lt_of_areDigits {ds : List Nat} (h : AreDigits ds) (k : Nat) : ds.getD k 0 < 2 ^ 64 := by
  obtain hk | hk := Nat.lt_or_ge k ds.length
  · rw [List.getD_eq_getElem _ _ hk]; exact h _ (List.getElem_mem hk)
  · rw [List.getD_eq_default _ _ hk]; decide

theorem getD_set_ne {ds : List Nat} {k m : Nat} (x : Nat) (h : k ≠ m) : (ds.set k x).getD m 0 = ds.getD m 0 := by
  rw [List.getD_eq_getElem?_getD, List.getElem?_set_ne h, ← List.getD_eq_getElem?_getD]

theorem limbsValue_replicate_zero (n : Nat) : limbsValue (List.replicate n 0) = 0 := by
  induction n with
  | zero => rfl
  | succ n ih => simp [List.replicate_succ, limbsValue, ih]

/-- Writing one digit takes the old digit out of the value and puts the new one in. -/
theorem limbsValue_set {ds : List Nat} {k : Nat} (x : Nat) (h : k < ds.length) :
    limbsValue (ds.set k x) + ds.getD k 0 * 2 ^ (64 * k) = limbsValue ds + x * 2 ^ (64 * k) := by
  induction ds generalizing k with
  | nil => cases h
  | cons d ds ih =>
    cases k with
    | zero => simp only [List.set_cons_zero, List.getD_cons_zero, limbsValue]; omega
    | succ k =>
      have hrest := ih (k := k) (Nat.lt_of_succ_lt_succ h)
      rw [List.set_cons_succ, List.getD_cons_succ, limbsValue, limbsValue, two_pow_limb_succ]
      linear_combination 2 ^ 64 * hrest

/-- R142's bound: a digit, a product of two limbs and a carry fit the 128-bit accumulator. -/
theorem digit_add_product_add_carry_lt {r x y c : Nat} (hr : r < 2 ^ 64) (hx : x < 2 ^ 64) (hy : y < 2 ^ 64)
    (hc : c < 2 ^ 64) : r + x * y + c < 2 ^ 128 := by
  have hprod : x * y ≤ (2 ^ 64 - 1) * (2 ^ 64 - 1) := Nat.mul_le_mul (by omega) (by omega)
  omega

/-! The inner loop. -/

/-- What holds of the array and the carry `p` after `j` turns of the inner loop for limb `i` of `a`, from array `r`. -/
structure InnerTurn (a b i : Nat) (r : List Nat) (j : Nat) (p : List Nat × Nat) : Prop where
  length : p.1.length = r.length
  digits : AreDigits p.1
  carry : p.2 < 2 ^ 64
  value : limbsValue p.1 + p.2 * 2 ^ (64 * (i + j)) =
    limbsValue r + limb a i * (b % 2 ^ (64 * j)) * 2 ^ (64 * i)
  above : ∀ k, i + j ≤ k → p.1.getD k 0 = r.getD k 0

theorem InnerTurn.accumulator_lt {a b i j : Nat} {r : List Nat} {p : List Nat × Nat} (h : InnerTurn a b i r j p) :
    p.1.getD (i + j) 0 + limb a i * limb b j + p.2 < 2 ^ 128 :=
  digit_add_product_add_carry_lt (getD_lt_of_areDigits h.digits _) (limb_lt a i) (limb_lt b j) h.carry

theorem mulInner_zero (a b i : Nat) {r : List Nat} (h : AreDigits r) : InnerTurn a b i r 0 (mulInner a b i r 0) where
  length := rfl
  digits := h
  carry := by simp [mulInner]
  value := by simp [mulInner, Nat.mod_one]
  above _ _ := rfl

/-- One turn keeps the equation of the values: the accumulator is what the old digit, the two limbs and the carry give,
and it is split into the new digit and the new carry. -/
theorem InnerTurn.succ {a b i j : Nat} {r : List Nat} {p : List Nat × Nat} (h : InnerTurn a b i r j p)
    (hj : i + j < r.length) {t : Nat} (ht : p.1.getD (i + j) 0 + limb a i * limb b j + p.2 = t) :
    InnerTurn a b i r (j + 1) (p.1.set (i + j) (t % 2 ^ 64), t / 2 ^ 64) where
  length := (List.length_set ..).trans h.length
  digits := areDigits_set _ h.digits (Nat.mod_lt _ (by decide))
  carry := by have := h.accumulator_lt; omega
  value := by
    have hset := limbsValue_set (t % 2 ^ 64) (h.length ▸ hj)
    have hsplit := (Nat.div_add_mod t (2 ^ 64)).trans ht.symm
    have hvalue := h.value
    generalize t % 2 ^ 64 = d at hset hsplit ⊢
    generalize t / 2 ^ 64 = c at hsplit ⊢
    rw [mod_pow_succ_limb, ← Nat.add_assoc, two_pow_limb_succ]
    rw [Nat.mul_add, Nat.pow_add] at hset hvalue ⊢
    linear_combination hset + hvalue + 2 ^ (64 * i) * 2 ^ (64 * j) * hsplit
  above k hk := (getD_set_ne _ (by omega)).trans (h.above k (by omega))

theorem mulInner_turn (a b i : Nat) {r : List Nat} {j : Nat} (hr : AreDigits r) (hj : i + j ≤ r.length) :
    InnerTurn a b i r j (mulInner a b i r j) := by
  induction j with
  | zero => exact mulInner_zero a b i hr
  | succ j ih => exact (ih (by omega)).succ hj rfl

/-! The outer loop. -/

/-- What holds of the array `r` after `i` turns of the outer loop. -/
structure OuterTurn (a b i : Nat) (r : List Nat) : Prop where
  length : r.length = nlimbs a + nlimbs b
  digits : AreDigits r
  value : limbsValue r = a % 2 ^ (64 * i) * b
  above : ∀ k, i + nlimbs b ≤ k → r.getD k 0 = 0

theorem mulOuter_zero (a b : Nat) : OuterTurn a b 0 (mulOuter a b 0) where
  length := List.length_replicate
  digits := areDigits_replicate_zero _
  value := by rw [mulOuter, limbsValue_replicate_zero, Nat.mul_zero, Nat.pow_zero, Nat.mod_one, Nat.zero_mul]
  above k _ := by
    rw [mulOuter, List.getD_eq_getElem?_getD, List.getElem?_replicate]
    split <;> rfl

/-- One turn adds the next limb of `a` times `b`; the last carry goes where the array is still zero. -/
theorem OuterTurn.succ {a b i : Nat} {r : List Nat} {p : List Nat × Nat} (h : OuterTurn a b i r) (hi : i < nlimbs a)
    (hp : InnerTurn a b i r (nlimbs b) p) : OuterTurn a b (i + 1) (p.1.set (i + nlimbs b) p.2) where
  length := ((List.length_set ..).trans hp.length).trans h.length
  digits := areDigits_set _ hp.digits hp.carry
  value := by
    have hlt : i + nlimbs b < p.1.length := by rw [hp.length, h.length]; omega
    have hset := limbsValue_set p.2 hlt
    have hvalue := hp.value
    rw [hp.above _ le_rfl, h.above _ le_rfl, Nat.zero_mul, Nat.add_zero] at hset
    rw [mod_two_pow_nlimbs, h.value] at hvalue
    rw [hset, hvalue, mod_pow_succ_limb]
    ring
  above k hk := by
    rw [getD_set_ne _ (by omega), hp.above k (by omega), h.above k (by omega)]

theorem mulInner_outerTurn {a b i j : Nat} {r : List Nat} (h : OuterTurn a b i r) (hi : i < nlimbs a)
    (hj : j ≤ nlimbs b) : InnerTurn a b i r j (mulInner a b i r j) :=
  mulInner_turn a b i h.digits (by rw [h.length]; omega)

theorem mulOuter_turn {a b i : Nat} (hi : i ≤ nlimbs a) : OuterTurn a b i (mulOuter a b i) := by
  induction i with
  | zero => exact mulOuter_zero a b
  | succ i ih =>
    have hturn := ih (by omega)
    exact hturn.succ hi (mulInner_outerTurn hturn hi le_rfl)

theorem schoolbookMul_eq (a b : Nat) : schoolbookMul a b = a * b := by
  rw [schoolbookMul, (mulOuter_turn le_rfl).value, mod_two_pow_nlimbs]

/-- Settles O46: the outer loop's equation at the last limb of `a`, and the bound of every turn. -/
theorem schoolbookMultiplierIsExact : Obligations.SchoolbookMultiplierIsExact := by
  unfold Obligations.SchoolbookMultiplierIsExact
  exact fun a b => ⟨schoolbookMul_eq a b, fun i j hi hj =>
    (mulInner_outerTurn (mulOuter_turn hi.le) hi hj.le).accumulator_lt⟩

end Sys2Proof.Machine

/-! PROOFS. The commands of the arithmetic kernel: CMP, ADD, SUB, MULS, MUL, DIV, MOD (41_arithmetic_kernel.md R131 to
R137), and the laws of R148. -/

namespace Sys2Proof.Machine

/-! How a command ends, for each check it makes (R223, R225). -/

theorem finish_reg (s : State) (d : Reg) (x : Nat) :
    s.finish (.ok (.regs [(d, x)])) = .next (s.setReg d x).finished := rfl

theorem finish_reg_reg (s : State) (d e : Reg) (x y : Nat) :
    s.finish (.ok (.regs [(d, x), (e, y)])) = .next ((s.setReg d x).setReg e y).finished := rfl

theorem finish_error (s : State) (e : CommandError) : s.finish (.error e) = .next (s.failed e) := rfl

theorem finish_stageIfFits_le {s : State} (d : Reg) {x : Nat} (h : nlimbs x ≤ s.cfg.maxLimbs) :
    s.finish (stageIfFits s d x) = .next (s.setReg d x).finished := by
  obtain ⟨_, hok⟩ | ⟨hlt, _⟩ := stageIfFits_cases s d x
  · rw [hok, finish_reg]
  · omega

theorem finish_stageIfFits_lt {s : State} (d : Reg) {x : Nat} (h : s.cfg.maxLimbs < nlimbs x) :
    s.finish (stageIfFits s d x) = .next (s.failed .capacity) := by
  obtain ⟨hle, _⟩ | ⟨_, herr⟩ := stageIfFits_cases s d x
  · omega
  · rw [herr, finish_error]

@[simp] theorem finished_reg (s : State) (r : Reg) : s.finished.reg r = s.reg r := rfl

/-! What each command does. -/

theorem exec_cmp (a b : Reg) (s : State) :
    exec (.cmp a b) s = .next (s.withCr (compareValues (s.reg a) (s.reg b))).finished := rfl

theorem exec_add (d a b : Reg) (s : State) : exec (.add d a b) s = s.finish (stageIfFits s d (s.reg a + s.reg b)) := rfl

theorem exec_muls (d a : Reg) (s : State) :
    exec (.muls d a) s = s.finish (stageIfFits s d (s.reg a * s.scalar.toNat)) := rfl

theorem exec_mul (d a b : Reg) (s : State) : exec (.mul d a b) s = s.finish (stageIfFits s d (s.reg a * s.reg b)) := rfl

theorem exec_add_fits {s : State} (d : Reg) {a b : Reg} (h : nlimbs (s.reg a + s.reg b) ≤ s.cfg.maxLimbs) :
    exec (.add d a b) s = .next (s.setReg d (s.reg a + s.reg b)).finished :=
  (exec_add d a b s).trans (finish_stageIfFits_le d h)

theorem exec_sub (d a b : Reg) (s : State) :
    exec (.sub d a b) s =
      s.finish (if s.reg a < s.reg b then .error .underflow else .ok (.regs [(d, s.reg a - s.reg b)])) := rfl

theorem exec_sub_le {s : State} (d : Reg) {a b : Reg} (h : s.reg b ≤ s.reg a) :
    exec (.sub d a b) s = .next (s.setReg d (s.reg a - s.reg b)).finished := by
  rw [exec_sub, if_neg (by omega), finish_reg]

theorem exec_sub_lt {s : State} (d : Reg) {a b : Reg} (h : s.reg a < s.reg b) :
    exec (.sub d a b) s = .next (s.failed .underflow) := by
  rw [exec_sub, if_pos h, finish_error]

theorem exec_div_distinct {q r : Reg} (a b : Reg) (s : State) (h : q ≠ r) :
    exec (.div q r a b) s =
      s.finish (stageIfNonzero (s.reg b) (.regs [(q, s.reg a / s.reg b), (r, s.reg a % s.reg b)])) := by
  rw [exec, execDiv, bne_iff_ne.2 h, stageIfDistinct_true]

theorem exec_div_pos {s : State} {q r : Reg} (a : Reg) {b : Reg} (h : q ≠ r) (hb : s.reg b ≠ 0) :
    exec (.div q r a b) s = .next ((s.setReg q (s.reg a / s.reg b)).setReg r (s.reg a % s.reg b)).finished := by
  rw [exec_div_distinct a b s h, stageIfNonzero_pos _ hb, finish_reg_reg]

theorem exec_div_zero {s : State} {q r : Reg} (a : Reg) {b : Reg} (h : q ≠ r) (hb : s.reg b = 0) :
    exec (.div q r a b) s = .next (s.failed .divisionByZero) := by
  rw [exec_div_distinct a b s h, hb, stageIfNonzero_zero, finish_error]

theorem exec_div_same (q a b : Reg) (s : State) : exec (.div q q a b) s = .next (s.failed .illegalCommand) := by
  rw [exec, execDiv, bne_self_eq_false, stageIfDistinct_false, finish_error]

theorem exec_mod (d a m : Reg) (s : State) :
    exec (.mod d a m) s = s.finish (stageIfNonzero (s.reg m) (.regs [(d, s.reg a % s.reg m)])) := rfl

theorem exec_mod_pos {s : State} (d a : Reg) {m : Reg} (hm : s.reg m ≠ 0) :
    exec (.mod d a m) s = .next (s.setReg d (s.reg a % s.reg m)).finished := by
  rw [exec_mod, stageIfNonzero_pos _ hm, finish_reg]

theorem exec_mod_zero {s : State} (d a : Reg) {m : Reg} (hm : s.reg m = 0) :
    exec (.mod d a m) s = .next (s.failed .divisionByZero) := by
  rw [exec_mod, hm, stageIfNonzero_zero, finish_error]

/-! The command words: R101's sum with the row's code and the fields the command fills (30_encoding.md R104). -/

theorem encode_cmp_toNat (a b : Reg) :
    (encode (.cmp a b)).toNat = 0x01000000 + a.val * 2 ^ 12 + b.val * 2 ^ 8 := by
  simp only [encode_toNat, packWord, Instr.opcode, Opcode.code, Instr.fields]
  omega

theorem encode_add_toNat (d a b : Reg) :
    (encode (.add d a b)).toNat = 0x02000000 + d.val * 2 ^ 20 + a.val * 2 ^ 12 + b.val * 2 ^ 8 := by
  simp only [encode_toNat, packWord, Instr.opcode, Opcode.code, Instr.fields]
  omega

theorem encode_sub_toNat (d a b : Reg) :
    (encode (.sub d a b)).toNat = 0x03000000 + d.val * 2 ^ 20 + a.val * 2 ^ 12 + b.val * 2 ^ 8 := by
  simp only [encode_toNat, packWord, Instr.opcode, Opcode.code, Instr.fields]
  omega

theorem encode_muls_toNat (d a : Reg) :
    (encode (.muls d a)).toNat = 0x04000000 + d.val * 2 ^ 20 + a.val * 2 ^ 12 := by
  simp only [encode_toNat, packWord, Instr.opcode, Opcode.code, Instr.fields]
  omega

theorem encode_mul_toNat (d a b : Reg) :
    (encode (.mul d a b)).toNat = 0x05000000 + d.val * 2 ^ 20 + a.val * 2 ^ 12 + b.val * 2 ^ 8 := by
  simp only [encode_toNat, packWord, Instr.opcode, Opcode.code, Instr.fields]
  omega

theorem encode_div_toNat (q r a b : Reg) :
    (encode (.div q r a b)).toNat = 0x06000000 + q.val * 2 ^ 20 + r.val * 2 ^ 16 + a.val * 2 ^ 12 + b.val * 2 ^ 8 := by
  simp only [encode_toNat, packWord, Instr.opcode, Opcode.code, Instr.fields]
  omega

theorem encode_mod_toNat (d a m : Reg) :
    (encode (.mod d a m)).toNat = 0x07000000 + d.val * 2 ^ 20 + a.val * 2 ^ 12 + m.val * 2 ^ 4 := by
  simp only [encode_toNat, packWord, Instr.opcode, Opcode.code, Instr.fields]
  omega

/-! The obligations. -/

/-- Settles O28: the limb-wise comparison is the numeric one. -/
theorem compareIsNumeric : Obligations.CompareIsNumeric := by
  unfold Obligations.CompareIsNumeric
  refine fun s a b => ⟨?_, encode_cmp_toNat a b⟩
  rw [exec_cmp, compareValues_eq, numericCompare]

/-- Settles O29: the capacity check, and the carry chain of R140 for a sum that does not fit. -/
theorem addWritesTheSumOrCapacity : Obligations.AddWritesTheSumOrCapacity := by
  unfold Obligations.AddWritesTheSumOrCapacity
  intro s d a b
  rw [exec_add]
  exact ⟨finish_stageIfFits_le d, finish_stageIfFits_lt d, rippleLoop_carry_of_overflow,
    encode_add_toNat d a b⟩

/-- Settles O30: the two branches of SUB. -/
theorem subWritesTheDifferenceOrUnderflow : Obligations.SubWritesTheDifferenceOrUnderflow := by
  unfold Obligations.SubWritesTheDifferenceOrUnderflow
  exact fun s d a b => ⟨exec_sub_le d, exec_sub_lt d, encode_sub_toNat d a b⟩

/-- Settles O31: the capacity check on the exact product. -/
theorem multiplyWritesTheProductOrCapacity : Obligations.MultiplyWritesTheProductOrCapacity := by
  unfold Obligations.MultiplyWritesTheProductOrCapacity
  intro s d a b
  rw [exec_muls, exec_mul]
  exact ⟨finish_stageIfFits_le d, finish_stageIfFits_lt d, finish_stageIfFits_le d,
    finish_stageIfFits_lt d, encode_muls_toNat d a, encode_mul_toNat d a b⟩

/-- Settles O32: for `a < b` quotient and remainder are `(0, a)`. -/
theorem divWritesQuotientAndRemainder : Obligations.DivWritesQuotientAndRemainder := by
  unfold Obligations.DivWritesQuotientAndRemainder
  refine fun s q r a b => ⟨fun hqr hb _ => exec_div_pos a hqr hb, fun hqr hlt => ?_, exec_div_zero a, ?_,
    encode_div_toNat q r a b⟩
  · rw [exec_div_pos a hqr (by omega), Nat.div_eq_of_lt hlt, Nat.mod_eq_of_lt hlt]
  · rintro rfl; exact exec_div_same q a b s

/-- Settles O33: MOD and DIV make the same check of the modulus and write the same remainder. -/
theorem modWritesTheRemainder : Obligations.ModWritesTheRemainder := by
  unfold Obligations.ModWritesTheRemainder
  refine fun s d a m => ⟨exec_mod_pos d a, exec_mod_zero d a, fun q t u hqd hdiv hmod => ?_, encode_mod_toNat d a m⟩
  by_cases hm : s.reg m = 0
  · cases (exec_div_zero a hqd hm).symm.trans hdiv
    cases (exec_mod_zero d a hm).symm.trans hmod
    rfl
  · cases (exec_div_pos a hqd hm).symm.trans hdiv
    cases (exec_mod_pos d a hm).symm.trans hmod
    simp only [finished_reg, reg_setReg_self]

/-- ADD into another register than `b`, then SUB of `b`. -/
theorem exec_sub_add {s : State} (e : Reg) {d a b : Reg} (hdb : d ≠ b)
    (hfits : nlimbs (s.reg a + s.reg b) ≤ s.cfg.maxLimbs) :
    ∃ t u, exec (.add d a b) s = .next t ∧ exec (.sub e d b) t = .next u ∧ u.reg e = s.reg a := by
  have hd : (s.setReg d (s.reg a + s.reg b)).finished.reg d = s.reg a + s.reg b := reg_setReg_self s d _
  have hb : (s.setReg d (s.reg a + s.reg b)).finished.reg b = s.reg b := reg_setReg_ne s _ hdb.symm
  refine ⟨_, _, exec_add_fits d hfits, exec_sub_le e (by rw [hd, hb]; omega), ?_⟩
  rw [finished_reg, reg_setReg_self, hd, hb, Nat.add_sub_cancel]

/-- Settles O43: a difference undoes a sum, and quotient and remainder make up the dividend. -/
theorem arithmeticLaws : Obligations.ArithmeticLaws := by
  unfold Obligations.ArithmeticLaws
  refine ⟨fun s d e a b => exec_sub_add e, fun s q r a b hqr hb => ⟨_, exec_div_pos a hqr hb, ?_⟩⟩
  rw [finished_reg, finished_reg, reg_setReg_self, reg_setReg_ne _ _ hqr, reg_setReg_self]
  exact ⟨Nat.div_add_mod' _ _, Nat.mod_lt _ (by omega)⟩

end Sys2Proof.Machine

/-! PROOFS. The number-theoretic algorithms (42_number_theory.md): binary exponentiation (R171), the Bezout identity of the
extended-Euclid recursion (R180) in sign and magnitude (R183), the inverse (R185), and the iterative datapath (R181). -/

namespace Sys2Proof.Machine

/-! Binary exponentiation (R171). -/

/-- What one turn of R171's loop keeps, modulo `m`: accumulator times base to the exponent. -/
theorem powLoop_turn_modEq (m acc x e : Nat) :
    (if e % 2 = 1 then acc * x % m else acc) * (x * x % m) ^ (e / 2) ≡ acc * x ^ e [MOD m] := by
  have hsq : (x * x % m) ^ (e / 2) ≡ x ^ (2 * (e / 2)) [MOD m] := by
    rw [pow_mul, sq]; exact (Nat.mod_modEq _ m).pow _
  rcases Nat.mod_two_eq_zero_or_one e with hpar | hpar
  · have he : 2 * (e / 2) = e := by omega
    rw [he] at hsq
    simpa [hpar] using hsq.mul_left acc
  · have he : x ^ e = x * x ^ (2 * (e / 2)) := by rw [← pow_succ']; congr 1; omega
    rw [if_pos hpar, he, ← Nat.mul_assoc]
    exact (Nat.mod_modEq _ m).mul hsq

/-- One turn per bit of the exponent is enough. -/
theorem powLoop_modEq (m : Nat) {n e : Nat} (acc x : Nat) (he : e < 2 ^ n) :
    powLoop m n acc x e ≡ acc * x ^ e [MOD m] := by
  induction n generalizing acc x e with
  | zero =>
    obtain rfl : e = 0 := by omega
    simp [powLoop, Nat.ModEq.refl]
  | succ n ih =>
    by_cases h0 : e = 0
    · simp [powLoop, h0, Nat.ModEq.refl]
    · rw [powLoop, if_neg h0]
      exact (ih _ _ (by omega)).trans (powLoop_turn_modEq m acc x e)

theorem modpowValue_eq_pow_mod {m : Nat} (a b : Nat) (hm : m ≠ 0) : modpowValue a b m = a ^ b % m := by
  by_cases hone : m = 1
  · simp [modpowValue, hone, Nat.mod_one]
  · have hpow : modpowValue a b m ≡ a ^ b [MOD m] := by
      simpa [modpowValue, hone] using powLoop_modEq m 1 a (Nat.lt_log2_self (n := b))
    exact (Nat.mod_eq_of_lt (modpowValue_lt a b hm)).symm.trans hpow

/-! The Bezout identity (R180, R190). -/

theorem egcdRec_bezout {n a b : Nat} (h : b ≤ n) :
    (a : Int) * (egcdRec n a b).2.1 + b * (egcdRec n a b).2.2 = (egcdRec n a b).1 := by
  induction n generalizing a b with
  | zero =>
    obtain rfl : b = 0 := by omega
    simp
  | succ n ih =>
    rcases Nat.eq_zero_or_pos b with rfl | hb
    · simp
    · have hlt : a % b < b := Nat.mod_lt a hb
      have hdiv : (a : Int) = b * (a / b : Nat) + (a % b : Nat) := by exact_mod_cast (Nat.div_add_mod a b).symm
      rw [egcdRec_succ n a hb]
      dsimp only
      rw [← ih (a := b) (b := a % b) (by omega), hdiv]
      ring

theorem egcd_bezout (a b : Nat) : (a : Int) * (egcd a b).2.1 + b * (egcd a b).2.2 = Nat.gcd a b := by
  rw [← egcd_fst]; exact egcdRec_bezout le_rfl

/-- R185's value: for coprime operands the residue of `x` modulo `m` is the inverse of `a`. -/
theorem egcd_residue_isInverse {a m : Nat} (hgcd : Nat.gcd a m = 1) (hm : 2 ≤ m) :
    1 ≤ ((egcd a m).2.1 % (m : Int)).toNat ∧ ((egcd a m).2.1 % (m : Int)).toNat < m ∧
      a * ((egcd a m).2.1 % (m : Int)).toNat % m = 1 := by
  obtain ⟨u, hu⟩ : ∃ u : Nat, (egcd a m).2.1 % (m : Int) = u :=
    Int.eq_ofNat_of_zero_le (Int.emod_nonneg _ (by omega))
  have hlt : (u : Int) < m := hu ▸ Int.emod_lt_of_pos _ (by omega)
  have hbezout := egcd_bezout a m
  rw [hgcd] at hbezout
  have hinv : (a : Int) * u ≡ 1 [ZMOD m] := calc
    (a : Int) * u ≡ a * (egcd a m).2.1 [ZMOD m] := hu ▸ (Int.mod_modEq _ _).mul_left _
    _ ≡ 1 [ZMOD m] := Int.modEq_iff_dvd.2 ⟨(egcd a m).2.2, by push_cast at hbezout; linarith⟩
  have hmod : a * u % m = 1 := by
    have hinvNat : a * u ≡ 1 [MOD m] := by exact_mod_cast hinv
    exact Nat.mod_eq_of_modEq hinvNat hm
  rw [hu, Int.toNat_natCast]
  refine ⟨Nat.one_le_iff_ne_zero.2 ?_, by omega, hmod⟩
  rintro rfl
  simp at hmod

/-! Sign and magnitude (R183). -/

theorem signOf_mul_natAbs (z : Int) : signOf (signBit z) * z.natAbs = z := by
  by_cases h : z < 0
  · simp only [signBit, signOf, h, decide_true, if_true]; omega
  · simp [signBit, signOf, h]; omega

/-- Zero has sign 0. -/
theorem signBit_eq_false_of_natAbs_eq_zero {z : Int} (h : z.natAbs = 0) : signBit z = false := by
  obtain rfl := Int.natAbs_eq_zero.1 h
  rfl

/-! The iterative datapath (R181). -/

/-- The loop applies the recursion's coefficients for what is left to the rows `(r0, s0, t0)` and `(r1, s1, t1)` that it
carries; both take the same turns, so this holds at every bound. -/
theorem egcdLoop_eq (n r0 r1 : Nat) (s0 s1 t0 t1 : Int) :
    egcdLoop n r0 r1 s0 s1 t0 t1 =
      ((egcdRec n r0 r1).1, s0 * (egcdRec n r0 r1).2.1 + s1 * (egcdRec n r0 r1).2.2,
        t0 * (egcdRec n r0 r1).2.1 + t1 * (egcdRec n r0 r1).2.2) := by
  induction n generalizing r0 r1 s0 s1 t0 t1 with
  | zero => simp [egcdLoop, egcdRec]
  | succ n ih =>
    by_cases h0 : r1 = 0
    · simp [egcdLoop, h0]
    · have hmod : r0 - r0 / r1 * r1 = r0 % r1 := by have := Nat.div_add_mod' r0 r1; omega
      rw [egcdLoop, if_neg h0, hmod, ih, egcdRec_succ n r0 (by omega)]
      ext <;> dsimp only <;> ring

/-- Settles O39: from the unit rows `(1, 0)` and `(0, 1)` the loop returns the recursion's coefficients themselves. -/
theorem egcdLoopEqualsRecursion : Obligations.EgcdLoopEqualsRecursion := by
  unfold Obligations.EgcdLoopEqualsRecursion
  intro a b
  rw [egcdIterative, egcdLoop_eq, egcd]
  simp

/-- Settles O40: the bounds of R182, and limb counts grow with the value. -/
theorem egcdCoefficientsAreBounded : Obligations.EgcdCoefficientsAreBounded := by
  unfold Obligations.EgcdCoefficientsAreBounded
  refine fun a b => ⟨egcd_x_natAbs_le a b, egcd_y_natAbs_le a b, fun ml ha hb => ?_⟩
  have hone : nlimbs 1 ≤ ml := nlimbs_one.trans_le ((nlimbs_pos a).trans ha)
  exact ⟨(nlimbs_mono (egcd_x_natAbs_le a b)).trans (nlimbs_max_le hb hone),
    (nlimbs_mono (egcd_y_natAbs_le a b)).trans (nlimbs_max_le ha hone)⟩

end Sys2Proof.Machine

/-! PROOFS. The number-theoretic commands: MODPOW, MODMUL, GCD, EGCD, MODINV (42_number_theory.md R170 to R185). -/

namespace Sys2Proof.Machine

/-! What each command does. -/

theorem exec_modpow (d base exp m : Reg) (s : State) :
    exec (.modpow d base exp m) s =
      s.finish (stageIfNonzero (s.reg m) (.regs [(d, modpowValue (s.reg base) (s.reg exp) (s.reg m))])) := rfl

theorem exec_modpow_pos {s : State} (d base exp : Reg) {m : Reg} (hm : s.reg m ≠ 0) :
    exec (.modpow d base exp m) s = .next (s.setReg d (s.reg base ^ s.reg exp % s.reg m)).finished := by
  rw [exec_modpow, stageIfNonzero_pos _ hm, finish_reg, modpowValue_eq_pow_mod _ _ hm]

theorem exec_modpow_zero {s : State} (d base exp : Reg) {m : Reg} (hm : s.reg m = 0) :
    exec (.modpow d base exp m) s = .next (s.failed .divisionByZero) := by
  rw [exec_modpow, hm, stageIfNonzero_zero, finish_error]

theorem exec_modmul (d a b m : Reg) (s : State) :
    exec (.modmul d a b m) s =
      s.finish (stageIfNonzero (s.reg m) (.regs [(d, s.reg a * s.reg b % s.reg m)])) := rfl

theorem exec_modmul_pos {s : State} (d a b : Reg) {m : Reg} (hm : s.reg m ≠ 0) :
    exec (.modmul d a b m) s = .next (s.setReg d (s.reg a * s.reg b % s.reg m)).finished := by
  rw [exec_modmul, stageIfNonzero_pos _ hm, finish_reg]

theorem exec_modmul_zero {s : State} (d a b : Reg) {m : Reg} (hm : s.reg m = 0) :
    exec (.modmul d a b m) s = .next (s.failed .divisionByZero) := by
  rw [exec_modmul, hm, stageIfNonzero_zero, finish_error]

theorem exec_gcd (d a b : Reg) (s : State) :
    exec (.gcd d a b) s = .next (s.setReg d (euclid (s.reg a) (s.reg b))).finished := rfl

/-- The next state of an EGCD whose three destinations are different, with the result `r` of the recursion. -/
def State.egcdDone (s : State) (g x y : Reg) (r : Nat × Int × Int) : State :=
  ((((s.setReg g r.1).setReg x r.2.1.natAbs).setReg y r.2.2.natAbs).withSigns (signBit r.2.1) (signBit r.2.2)).finished

theorem exec_egcd (g x y a b : Reg) (s : State) :
    exec (.egcd g x y a b) s =
      s.finish (stageIfDistinct (g != x && g != y && x != y) (.ok (stageEgcd g x y (egcd (s.reg a) (s.reg b))))) := rfl

theorem exec_egcd_distinct {g x y : Reg} (a b : Reg) (s : State) (hgx : g ≠ x) (hgy : g ≠ y) (hxy : x ≠ y) :
    exec (.egcd g x y a b) s = .next (s.egcdDone g x y (egcd (s.reg a) (s.reg b))) := by
  rw [exec_egcd, bne_iff_ne.2 hgx, bne_iff_ne.2 hgy, bne_iff_ne.2 hxy]
  rfl

theorem exec_egcd_same {g x y : Reg} (a b : Reg) (s : State) (h : g = x ∨ g = y ∨ x = y) :
    exec (.egcd g x y a b) s = .next (s.failed .illegalCommand) := by
  have hsame : (g != x && g != y && x != y) = false := by rcases h with rfl | rfl | rfl <;> simp
  rw [exec_egcd, hsame, stageIfDistinct_false, finish_error]

theorem egcdDone_reg_g {g x y : Reg} (s : State) (r : Nat × Int × Int) (hgx : g ≠ x) (hgy : g ≠ y) :
    (s.egcdDone g x y r).reg g = r.1 :=
  (reg_setReg_ne _ _ hgy).trans ((reg_setReg_ne _ _ hgx).trans (reg_setReg_self s g _))

theorem egcdDone_reg_x {x y : Reg} (s : State) (g : Reg) (r : Nat × Int × Int) (hxy : x ≠ y) :
    (s.egcdDone g x y r).reg x = r.2.1.natAbs :=
  (reg_setReg_ne _ _ hxy).trans (reg_setReg_self _ x _)

theorem egcdDone_reg_y (s : State) (g x y : Reg) (r : Nat × Int × Int) :
    (s.egcdDone g x y r).reg y = r.2.2.natAbs := reg_setReg_self _ y _

theorem exec_modinv (d a m : Reg) (s : State) :
    exec (.modinv d a m) s = s.finish (modinvResult d (s.reg a) (s.reg m)) := rfl

theorem modinvResult_of_gcd_ne_one (d : Reg) {a m : Nat} (h : Nat.gcd a m ≠ 1) :
    modinvResult d a m = .ok (.regs [(d, 0)]) := if_pos ((egcd_fst a m).trans_ne h)

theorem modinvResult_of_gcd_eq_one (d : Reg) {a m : Nat} (h : Nat.gcd a m = 1) :
    modinvResult d a m = stageIfNonzero m (.regs [(d, ((egcd a m).2.1 % (m : Int)).toNat)]) :=
  if_neg (not_not.2 ((egcd_fst a m).trans h))

theorem exec_modinv_sentinel {s : State} (d : Reg) {a m : Reg} (h : Nat.gcd (s.reg a) (s.reg m) ≠ 1) :
    exec (.modinv d a m) s = .next (s.setReg d 0).finished := by
  rw [exec_modinv, modinvResult_of_gcd_ne_one d h, finish_reg]

theorem exec_modinv_zero {s : State} (d : Reg) {a m : Reg} (ha : s.reg a = 1) (hm : s.reg m = 0) :
    exec (.modinv d a m) s = .next (s.failed .divisionByZero) := by
  rw [exec_modinv, modinvResult_of_gcd_eq_one d (by rw [ha, Nat.gcd_one_left]), hm, stageIfNonzero_zero, finish_error]

theorem exec_modinv_coprime {s : State} (d : Reg) {a m : Reg} (h : Nat.gcd (s.reg a) (s.reg m) = 1)
    (hm : s.reg m ≠ 0) :
    exec (.modinv d a m) s =
      .next (s.setReg d ((egcd (s.reg a) (s.reg m)).2.1 % (s.reg m : Int)).toNat).finished := by
  rw [exec_modinv, modinvResult_of_gcd_eq_one d h, stageIfNonzero_pos _ hm, finish_reg]

/-! The command words: R101's sum with the row's code and the fields the command fills (30_encoding.md R104). -/

theorem encode_modpow_toNat (d base exp m : Reg) :
    (encode (.modpow d base exp m)).toNat =
      0x10000000 + d.val * 2 ^ 20 + base.val * 2 ^ 12 + exp.val * 2 ^ 8 + m.val * 2 ^ 4 := by
  simp only [encode_toNat, packWord, Instr.opcode, Opcode.code, Instr.fields]
  omega

theorem encode_modmul_toNat (d a b m : Reg) :
    (encode (.modmul d a b m)).toNat =
      0x11000000 + d.val * 2 ^ 20 + a.val * 2 ^ 12 + b.val * 2 ^ 8 + m.val * 2 ^ 4 := by
  simp only [encode_toNat, packWord, Instr.opcode, Opcode.code, Instr.fields]
  omega

theorem encode_gcd_toNat (d a b : Reg) :
    (encode (.gcd d a b)).toNat = 0x12000000 + d.val * 2 ^ 20 + a.val * 2 ^ 12 + b.val * 2 ^ 8 := by
  simp only [encode_toNat, packWord, Instr.opcode, Opcode.code, Instr.fields]
  omega

theorem encode_egcd_toNat (g x y a b : Reg) :
    (encode (.egcd g x y a b)).toNat =
      0x13000000 + g.val * 2 ^ 20 + x.val * 2 ^ 16 + a.val * 2 ^ 12 + b.val * 2 ^ 8 + y.val * 2 ^ 4 := by
  simp only [encode_toNat, packWord, Instr.opcode, Opcode.code, Instr.fields]
  omega

theorem encode_modinv_toNat (d a m : Reg) :
    (encode (.modinv d a m)).toNat = 0x14000000 + d.val * 2 ^ 20 + a.val * 2 ^ 12 + m.val * 2 ^ 4 := by
  simp only [encode_toNat, packWord, Instr.opcode, Opcode.code, Instr.fields]
  omega

/-! The obligations. -/

/-- Settles O34: R171's loop gives the power's residue, which is 0 for the modulus 1. -/
theorem modpowWritesThePower : Obligations.ModpowWritesThePower := by
  unfold Obligations.ModpowWritesThePower
  refine fun s d base exp m => ⟨fun hm => exec_modpow_pos d base exp (by omega), fun hm => ?_,
    exec_modpow_zero d base exp, encode_modpow_toNat d base exp m⟩
  rw [exec_modpow_pos d base exp (by omega), hm, Nat.mod_one]

/-- Settles O35: the check of the modulus, and no check of the product. -/
theorem modmulWritesTheProductsRemainder : Obligations.ModmulWritesTheProductsRemainder := by
  unfold Obligations.ModmulWritesTheProductsRemainder
  exact fun s d a b m => ⟨exec_modmul_pos d a b, exec_modmul_zero d a b, encode_modmul_toNat d a b m⟩

/-- Settles O36: Euclid's loop reaches the greatest common divisor. -/
theorem gcdWritesTheGreatestCommonDivisor : Obligations.GcdWritesTheGreatestCommonDivisor := by
  unfold Obligations.GcdWritesTheGreatestCommonDivisor
  refine fun s d a b => ⟨?_, encode_gcd_toNat d a b⟩
  rw [exec_gcd, euclid_eq_gcd]

/-- Settles O37: the check of the destinations decides between the two completions. -/
theorem egcdWritesMagnitudesAndSigns : Obligations.EgcdWritesMagnitudesAndSigns := by
  unfold Obligations.EgcdWritesMagnitudesAndSigns
  exact fun s g x y a b => ⟨exec_egcd_distinct a b s, exec_egcd_same a b s, encode_egcd_toNat g x y a b⟩

/-- Settles O41: sign times magnitude gives the recursion's coefficients back, which satisfy the identity. -/
theorem egcdSatisfiesBezout : Obligations.EgcdSatisfiesBezout := by
  unfold Obligations.EgcdSatisfiesBezout
  intro s g x y a b hgx hgy hxy
  have hexec := exec_egcd_distinct a b s hgx hgy hxy
  obtain ⟨hxneg, hyneg⟩ := exec_egcd_signs hgx hgy hxy hexec
  refine ⟨_, hexec, ?_⟩
  rw [hxneg, hyneg, egcdDone_reg_g s _ hgx hgy, egcdDone_reg_x s g _ hxy, egcdDone_reg_y, egcd_fst,
    signOf_mul_natAbs, signOf_mul_natAbs]
  exact ⟨rfl, egcd_bezout _ _, signBit_eq_false_of_natAbs_eq_zero, signBit_eq_false_of_natAbs_eq_zero⟩

/-- Settles O42: the three cases of R185, and Bezout's identity modulo `m`. -/
theorem modinvWritesTheInverse : Obligations.ModinvWritesTheInverse := by
  unfold Obligations.ModinvWritesTheInverse
  refine fun s d a m => ⟨exec_modinv_sentinel d, exec_modinv_zero d, exec_modinv_coprime d, fun t hgcd hm ht => ?_,
    encode_modinv_toNat d a m⟩
  cases (exec_modinv_coprime d hgcd (by omega)).symm.trans ht
  rw [finished_reg, reg_setReg_self]
  exact egcd_residue_isInverse hgcd hm

end Sys2Proof.Machine

/-! PROOFS. The data-movement commands: NOP, CLR, MOV, LDS (43_data_movement.md R200 to R203). -/

namespace Sys2Proof.Machine

/-! What each command does. None of them makes a check, so each has one way to end. -/

theorem exec_nop (s : State) : exec .nop s = .next s.finished :=
  congrArg Host.Outcome.next (completeOk_nothing s)

theorem exec_clr (d : Reg) (s : State) : exec (.clr d) s = .next (s.setReg d 0).finished := finish_reg s d 0

theorem exec_mov (d a : Reg) (s : State) : exec (.mov d a) s = .next (s.setReg d (s.reg a)).finished :=
  finish_reg s d (s.reg a)

theorem exec_lds (d : Reg) (s : State) : exec (.lds d) s = .next (s.setReg d s.scalar.toNat).finished :=
  finish_reg s d s.scalar.toNat

/-! The command words: R101's sum with the row's code and the fields the command fills (30_encoding.md R104). -/

theorem encode_nop_toNat : (encode .nop).toNat = 0 := by
  simp only [encode_toNat, packWord, Instr.opcode, Opcode.code, Instr.fields]
  omega

theorem encode_clr_toNat (d : Reg) : (encode (.clr d)).toNat = 0x20000000 + d.val * 2 ^ 20 := by
  simp only [encode_toNat, packWord, Instr.opcode, Opcode.code, Instr.fields]
  omega

theorem encode_mov_toNat (d a : Reg) :
    (encode (.mov d a)).toNat = 0x21000000 + d.val * 2 ^ 20 + a.val * 2 ^ 12 := by
  simp only [encode_toNat, packWord, Instr.opcode, Opcode.code, Instr.fields]
  omega

theorem encode_lds_toNat (d : Reg) : (encode (.lds d)).toNat = 0x22000000 + d.val * 2 ^ 20 := by
  simp only [encode_toNat, packWord, Instr.opcode, Opcode.code, Instr.fields]
  omega

/-! The obligation. -/

/-- Settles O27: each command stages its result without a check, so it completes in every state. -/
theorem dataMovementResults : Obligations.DataMovementResults := by
  unfold Obligations.DataMovementResults
  exact fun s d a => ⟨exec_nop s, exec_clr d s, exec_mov d a s, exec_lds d s,
    encode_nop_toNat, encode_clr_toNat d, encode_mov_toNat d a, encode_lds_toNat d⟩

end Sys2Proof.Machine

/-! PROOFS. The errors a command can end with (60_exceptions.md R222 to R227): the table of its causes, and that nothing
else raises one. -/

namespace Sys2Proof.Machine

/-- The causes of each error, one constructor per command and check (R222 to R226). DIV asks for different destinations
before it looks at its divisor (R226). -/
inductive Raises (s : State) : Instr → CommandError → Prop
  | illFormed {i : Instr} (h : i.wellFormed = false) : Raises s i .illegalCommand
  | divByZero {q r a b : Reg} (hqr : q ≠ r) (hb : s.reg b = 0) : Raises s (.div q r a b) .divisionByZero
  | modByZero {d a m : Reg} (hm : s.reg m = 0) : Raises s (.mod d a m) .divisionByZero
  | modpowByZero {d base exp m : Reg} (hm : s.reg m = 0) : Raises s (.modpow d base exp m) .divisionByZero
  | modmulByZero {d a b m : Reg} (hm : s.reg m = 0) : Raises s (.modmul d a b m) .divisionByZero
  | modinvByZero {d a m : Reg} (ha : s.reg a = 1) (hm : s.reg m = 0) : Raises s (.modinv d a m) .divisionByZero
  | subBelow {d a b : Reg} (h : s.reg a < s.reg b) : Raises s (.sub d a b) .underflow
  | addOver {d a b : Reg} (h : s.cfg.maxLimbs < nlimbs (s.reg a + s.reg b)) : Raises s (.add d a b) .capacity
  | mulsOver {d a : Reg} (h : s.cfg.maxLimbs < nlimbs (s.reg a * s.scalar.toNat)) : Raises s (.muls d a) .capacity
  | mulOver {d a b : Reg} (h : s.cfg.maxLimbs < nlimbs (s.reg a * s.reg b)) : Raises s (.mul d a b) .capacity

theorem raises_illegalCommand_iff {s : State} {i : Instr} : Raises s i .illegalCommand ↔ i.wellFormed = false :=
  ⟨fun | .illFormed h => h, .illFormed⟩

/-- A command that names one register for two results (R109). -/
theorem exec_illFormed {i : Instr} (s : State) (h : i.wellFormed = false) :
    exec i s = .next (s.failed .illegalCommand) := by
  cases i with
  | div q r a b =>
    obtain rfl : q = r := by simpa [Instr.wellFormed] using h
    exact exec_div_same q a b s
  | egcd g x y a b =>
    refine exec_egcd_same a b s ?_
    simpa only [Instr.wellFormed, Bool.and_eq_false_iff, bne_eq_false_iff_eq, or_assoc] using h
  | _ => cases h

/-- Every cause in the table ends the command with its error. -/
theorem exec_of_raises {s : State} {i : Instr} {e : CommandError} (h : Raises s i e) :
    exec i s = .next (s.failed e) := by
  cases h with
  | illFormed h => exact exec_illFormed s h
  | divByZero hqr hb => exact exec_div_zero _ hqr hb
  | modByZero hm => exact exec_mod_zero _ _ hm
  | modpowByZero hm => exact exec_modpow_zero _ _ _ hm
  | modmulByZero hm => exact exec_modmul_zero _ _ _ hm
  | modinvByZero ha hm => exact exec_modinv_zero _ ha hm
  | subBelow h => exact exec_sub_lt _ h
  | addOver h => exact finish_stageIfFits_lt _ h
  | mulsOver h => exact finish_stageIfFits_lt _ h
  | mulOver h => exact finish_stageIfFits_lt _ h

/-- A modulus that MODINV turns away: only 1 is coprime to 0. -/
theorem raises_modinv {s : State} {d a m : Reg} (hgcd : Nat.gcd (s.reg a) (s.reg m) = 1) (hm : s.reg m = 0) :
    Raises s (.modinv d a m) .divisionByZero :=
  .modinvByZero (by rw [← hgcd, hm, Nat.gcd_zero_right]) hm

/-- The table is complete: a command without a cause in it succeeds. -/
theorem exec_raises_or_finished (i : Instr) (s : State) :
    (∃ e, Raises s i e) ∨ ∃ u : State, exec i s = .next u.finished := by
  cases i with
  | nop => exact .inr ⟨_, exec_nop s⟩
  | cmp a b => exact .inr ⟨_, exec_cmp a b s⟩
  | add d a b => exact (lt_or_ge _ _).imp (fun h => ⟨_, .addOver h⟩) fun h => ⟨_, finish_stageIfFits_le d h⟩
  | sub d a b => exact (lt_or_ge _ _).imp (fun h => ⟨_, .subBelow h⟩) fun h => ⟨_, exec_sub_le d h⟩
  | muls d a => exact (lt_or_ge _ _).imp (fun h => ⟨_, .mulsOver h⟩) fun h => ⟨_, finish_stageIfFits_le d h⟩
  | mul d a b => exact (lt_or_ge _ _).imp (fun h => ⟨_, .mulOver h⟩) fun h => ⟨_, finish_stageIfFits_le d h⟩
  | div q r a b =>
    by_cases hqr : q = r
    · exact .inl ⟨_, .illFormed (by simp [Instr.wellFormed, hqr])⟩
    · exact (eq_or_ne _ 0).imp (fun h => ⟨_, .divByZero hqr h⟩) fun h => ⟨_, exec_div_pos a hqr h⟩
  | mod d a m => exact (eq_or_ne _ 0).imp (fun h => ⟨_, .modByZero h⟩) fun h => ⟨_, exec_mod_pos d a h⟩
  | modpow d base exp m =>
    exact (eq_or_ne _ 0).imp (fun h => ⟨_, .modpowByZero h⟩) fun h => ⟨_, exec_modpow_pos d base exp h⟩
  | modmul d a b m => exact (eq_or_ne _ 0).imp (fun h => ⟨_, .modmulByZero h⟩) fun h => ⟨_, exec_modmul_pos d a b h⟩
  | gcd d a b => exact .inr ⟨_, exec_gcd d a b s⟩
  | egcd g x y a b =>
    cases hwf : (Instr.egcd g x y a b).wellFormed with
    | false => exact .inl ⟨_, .illFormed hwf⟩
    | true =>
      simp only [Instr.wellFormed, Bool.and_eq_true, bne_iff_ne] at hwf
      obtain ⟨⟨hgx, hgy⟩, hxy⟩ := hwf
      exact .inr ⟨_, exec_egcd_distinct a b s hgx hgy hxy⟩
  | modinv d a m =>
    by_cases hgcd : Nat.gcd (s.reg a) (s.reg m) = 1
    · exact (eq_or_ne _ 0).imp (fun h => ⟨_, raises_modinv hgcd h⟩) fun h => ⟨_, exec_modinv_coprime d hgcd h⟩
    · exact .inr ⟨_, exec_modinv_sentinel d hgcd⟩
  | clr d => exact .inr ⟨_, exec_clr d s⟩
  | mov d a => exact .inr ⟨_, exec_mov d a s⟩
  | lds d => exact .inr ⟨_, exec_lds d s⟩

/-- A command ends with an error exactly when the table gives a cause for it. -/
theorem exec_errcode_iff {i : Instr} {s t : State} (h : exec i s = .next t) (e : CommandError) :
    t.status.errcode = some e ↔ Raises s i e := by
  constructor
  · intro he
    obtain ⟨e', hraises⟩ | ⟨u, hu⟩ := exec_raises_or_finished i s
    · cases (exec_of_raises hraises).symm.trans h
      cases he
      exact hraises
    · cases hu.symm.trans h
      cases he
  · intro hraises
    cases (exec_of_raises hraises).symm.trans h
    rfl

/-- Settles O48: the five rows of the table for this error. -/
theorem divisionByZeroExactly : Obligations.DivisionByZeroExactly := by
  unfold Obligations.DivisionByZeroExactly
  intro i s t h
  rw [exec_errcode_iff h]
  constructor
  · intro hraises
    cases hraises with
    | divByZero hqr hb => exact .inl ⟨_, _, _, _, rfl, hqr, hb⟩
    | modByZero hm => exact .inr <| .inl ⟨_, _, _, rfl, hm⟩
    | modpowByZero hm => exact .inr <| .inr <| .inl ⟨_, _, _, _, rfl, hm⟩
    | modmulByZero hm => exact .inr <| .inr <| .inr <| .inl ⟨_, _, _, _, rfl, hm⟩
    | modinvByZero ha hm => exact .inr <| .inr <| .inr <| .inr ⟨_, _, _, rfl, ha, hm⟩
  · rintro (⟨q, r, a, b, rfl, hqr, hb⟩ | ⟨d, a, m, rfl, hm⟩ | ⟨d, a, b, m, rfl, hm⟩ | ⟨d, a, b, m, rfl, hm⟩ |
      ⟨d, a, m, rfl, ha, hm⟩)
    · exact .divByZero hqr hb
    · exact .modByZero hm
    · exact .modpowByZero hm
    · exact .modmulByZero hm
    · exact .modinvByZero ha hm

/-- Settles O49: the one row of the table for this error. -/
theorem underflowExactly : Obligations.UnderflowExactly := by
  unfold Obligations.UnderflowExactly
  intro i s t h
  rw [exec_errcode_iff h]
  constructor
  · intro hraises
    cases hraises with
    | subBelow hlt => exact ⟨_, _, _, rfl, hlt⟩
  · rintro ⟨d, a, b, rfl, hlt⟩
    exact .subBelow hlt

/-- Settles O50: the three rows of the table for this error. -/
theorem capacityExactly : Obligations.CapacityExactly := by
  unfold Obligations.CapacityExactly
  intro i s t h
  rw [exec_errcode_iff h]
  constructor
  · intro hraises
    cases hraises with
    | addOver hlt => exact .inl ⟨_, _, _, rfl, hlt⟩
    | mulsOver hlt => exact .inr <| .inl ⟨_, _, rfl, hlt⟩
    | mulOver hlt => exact .inr <| .inr ⟨_, _, _, rfl, hlt⟩
  · rintro (⟨d, a, b, rfl, hlt⟩ | ⟨d, a, rfl, hlt⟩ | ⟨d, a, b, rfl, hlt⟩)
    · exact .addOver hlt
    · exact .mulsOver hlt
    · exact .mulOver hlt

theorem exec_precise {i : Instr} {s t : State} (h : exec i s = .next t) (herr : t.status.err = true) :
    ∃ e, t = s.failed e := by
  obtain ⟨w, _, rfl⟩ | ⟨e, rfl⟩ := exec_cases h
  · cases herr
  · exact ⟨e, rfl⟩

/-- Settles O51: an erring completion is `State.failed`, for a command and for a value that is none. -/
theorem errorsArePrecise : Obligations.ErrorsArePrecise := by
  unfold Obligations.ErrorsArePrecise
  refine ⟨fun i s t => exec_precise, fun s t w hw hnil h herr => ?_⟩
  rw [step_nil hnil] at h
  obtain ⟨hidle, _⟩ | ⟨_, _, _, _, hreject⟩ | ⟨_, i, _, _, hexec⟩ := coreTurn_cases s
  · cases hw.symm.trans hidle
  · cases hreject.symm.trans h
    exact ⟨.illegalCommand, rfl⟩
  · exact exec_precise (hexec ▸ h) herr

end Sys2Proof.Machine

/-! PROOFS. The `CMD` values that complete with ILLEGAL_COMMAND (60_exceptions.md R222; 30_encoding.md R106, R109,
R112). -/

namespace Sys2Proof.Machine

/-- The register a field names is the field's value (R102). -/
theorem regField_eq_iff (v lo lo' : Nat) :
    regField v lo = regField v lo' ↔ bits v (lo + 3) lo = bits v (lo' + 3) lo' := by
  rw [Fin.ext_iff, regField_val, regField_val, bits, bits]
  simp

/-- In a row's word, a destination conflict is one register named for two results by the row's command. -/
theorem destinationConflict_iff {v : Nat} {op : Opcode} (hopc : bits v 31 24 = op.code) :
    destinationConflict v ↔ (op.instr (fieldsOf v)).wellFormed = false := by
  cases op with
  | div => simp [destinationConflict, hopc, Opcode.code, Opcode.instr, Instr.wellFormed, fieldsOf, regField_eq_iff]
  | egcd =>
    simp [destinationConflict, hopc, Opcode.code, Opcode.instr, Instr.wellFormed, fieldsOf, regField_eq_iff,
      or_iff_not_imp_left]
  | _ => simp [destinationConflict, hopc, Opcode.code, Opcode.instr, Instr.wellFormed]

theorem mem_printedMasks (op : Opcode) : (op, op.matchWord, op.mask) ∈ printedMasks := by
  cases op <;> decide

/-- Of the values that decode, those with a destination conflict are illegal. -/
theorem illegalValue_iff_of_decode {w : Word} {i : Instr} (h : decode w = .ok i) :
    illegalValue w ↔ i.wellFormed = false := by
  obtain ⟨hhigh, op, hopc, hsbz, rfl⟩ := decode_eq_ok_iff.1 h
  rw [← destinationConflict_iff hopc, illegalValue]
  refine ⟨fun hill => ?_, fun hconf => .inr (.inr hconf)⟩
  obtain hne | hrows | hconf := hill
  · exact absurd hhigh hne
  · exact absurd ((and_mask_eq_matchWord_iff w.toNat op).2 ⟨hopc, hsbz⟩) (hrows _ (mem_printedMasks op))
  · exact hconf

/-- Every value the decoder rejects is illegal: a value below 2^32 in a row's mask and match decodes. -/
theorem illegalValue_of_reject {w : Word} {e : Reject} (h : decode w = .error e) : illegalValue w := by
  by_contra hlegal
  rw [illegalValue, not_or, not_or, not_not] at hlegal
  obtain ⟨hhigh, hrows, -⟩ := hlegal
  push Not at hrows
  obtain ⟨row, hrow, hmatch⟩ := hrows
  obtain ⟨i, hi, -⟩ := (decoderFollowsThePrintedMasks.1 w row ((bits_high_eq_zero_iff w).1 hhigh) hrow).2 hmatch
  cases h.symm.trans hi

theorem coreTurn_of_illegalValue {s : State} {w : Word} (hw : s.inflight = some w) (hill : illegalValue w) :
    coreTurn s = .next (s.failed .illegalCommand) := by
  obtain ⟨hidle, _⟩ | ⟨_, _, _, _, hreject⟩ | ⟨w', i, hw', hi, hexec⟩ := coreTurn_cases s
  · cases hw.symm.trans hidle
  · exact hreject
  · cases hw.symm.trans hw'
    exact hexec.trans (exec_illFormed s ((illegalValue_iff_of_decode hi).1 hill))

theorem illegalValue_of_coreTurn {s t : State} {w : Word} (hw : s.inflight = some w) (h : coreTurn s = .next t)
    (hcode : t.status.errcode = some .illegalCommand) : illegalValue w := by
  obtain ⟨hidle, _⟩ | ⟨w', e, hw', he, _⟩ | ⟨w', i, hw', hi, hexec⟩ := coreTurn_cases s
  · cases hw.symm.trans hidle
  · cases hw.symm.trans hw'
    exact illegalValue_of_reject he
  · cases hw.symm.trans hw'
    rw [illegalValue_iff_of_decode hi, ← raises_illegalCommand_iff]
    exact (exec_errcode_iff (hexec ▸ h) _).1 hcode

/-- Settles O24: the decoder rejects the values without a row, and the check of the destinations the others. -/
theorem illegalCommandExactlyForIllegalValues : Obligations.IllegalCommandExactlyForIllegalValues := by
  unfold Obligations.IllegalCommandExactlyForIllegalValues
  intro s w hw hnil
  rw [step_nil hnil]
  have hfails := coreTurn_of_illegalValue hw
  exact ⟨⟨hfails, fun h => illegalValue_of_coreTurn hw h rfl⟩,
    ⟨fun hill => ⟨_, hfails hill, rfl⟩, fun ⟨_, h, hcode⟩ => illegalValue_of_coreTurn hw h hcode⟩⟩

end Sys2Proof.Machine

/-! PROOFS. The interrupt output and the order of events (60_exceptions.md R234, R235; 70_reset_and_hazards.md R260). -/

namespace Sys2Proof.Machine

theorem irq_iff (s : State) : s.irq = true ↔ s.ctrl.ie = true ∧ s.status.done = true := Bool.and_eq_true_iff

theorem irq_eq_false_of_not_done {s : State} (h : s.status.done = false) : s.irq = false := by
  rw [State.irq, h, Bool.and_false]

theorem irq_eq_ie_of_done {s : State} (h : s.status.done = true) : s.irq = s.ctrl.ie := by
  rw [State.irq, h, Bool.and_true]

theorem exec_done {i : Instr} {s t : State} (h : exec i s = .next t) : t.status.done = true := by
  obtain ⟨w, _, rfl⟩ | ⟨e, rfl⟩ := exec_cases h
  · exact completeOk_done s w
  · exact completeError_done s e

theorem exec_ctrl {i : Instr} {s t : State} (h : exec i s = .next t) : t.ctrl = s.ctrl := by
  obtain ⟨w, _, rfl⟩ | ⟨e, rfl⟩ := exec_cases h
  · exact completeOk_ctrl s w
  · exact completeError_ctrl s e

/-- Settles O20: DONE is 0 after a W1C, an accept and a reset and 1 after a completion, and a CTRL write keeps it. -/
theorem irqIsEnableAndDone : Obligations.IrqIsEnableAndDone := by
  unfold Obligations.IrqIsEnableAndDone
  refine fun s => ⟨irq_iff s, fun line => ?_, fun x hx => irq_eq_false_of_not_done ?_,
    fun x hidle => irq_eq_false_of_not_done ?_, irq_eq_false_of_not_done rfl, fun x hx => ?_, fun i t h => ?_⟩
  · rw [State.drivesLine, Bool.and_eq_true, beq_iff_eq]
  · rw [hostWrite_status, acknowledge_status, Status.writeOneToClear, hx, Bool.not_true, Bool.and_false]
  · rw [hostWrite_cmd, accept_idle x hidle]
  · rw [hostWrite_ctrl, writeCtrl_store s hx]; rfl
  · rw [irq_eq_ie_of_done (exec_done h), exec_ctrl h]

/-- Two steps of which the second is the CORE's turn. -/
theorem run_two_coreTurn {s t u : State} {rest : List Event} (hs : step s = .next t)
    (hagenda : t.agenda = .coreTurn :: rest) (hu : coreTurn { t with agenda := rest } = .next u) :
    Sys2Proof.core.run 2 s = .next u := by
  have ht : step t = .next u := (step_cons hagenda).trans hu
  simp only [Host.Core.run, core, hs, ht]

/-- A turn of the CORE with a command in flight completes it (R39), whatever its value. -/
theorem coreTurn_completes {s : State} {w : Word} (hw : s.inflight = some w) :
    ∃ r, coreTurn s = .next (s.complete r) := by
  obtain ⟨hidle, _⟩ | ⟨_, _, _, _, hreject⟩ | ⟨_, i, _, _, hexec⟩ := coreTurn_cases s
  · cases hw.symm.trans hidle
  · exact ⟨.error .illegalCommand, hreject⟩
  · obtain ⟨r, hr⟩ := exec_eq_finish i s
    exact ⟨r, hexec.trans hr⟩

theorem complete_agenda (s : State) (r : Except CommandError Staged) : (s.complete r).agenda = s.agenda := by
  cases r <;> rfl

theorem step_statusWrite {s : State} {x : Word} {rest : List Event}
    (h : s.agenda = .access { addr := s.cfg.base + 0x0018, width := 64, kind := .write x } :: rest) :
    step s = .next ({ s with agenda := rest }.acknowledge x) :=
  (step_cons h).trans (performAccess_write_offset { s with agenda := rest } x (by decide) (by decide))

/-- A hard reset and a CTRL write with the soft-reset bit do the same (R260, R262). -/
theorem step_reset {s : State} {e : Event} {x : Word} {rest : List Event} (hx : x.getLsbD 6 = true)
    (he : e = .hardReset ∨ e = .access { addr := s.cfg.base + 0x0010, width := 64, kind := .write x })
    (h : s.agenda = e :: rest) : step s = .next { s with agenda := rest }.hardReset := by
  obtain rfl | rfl := he
  · exact step_cons h
  · rw [← writeCtrl_reset { s with agenda := rest } hx]
    exact (step_cons h).trans (performAccess_write_offset { s with agenda := rest } x (by decide) (by decide))

/-- Settles O56: the STATUS write leaves the command in flight, and after a reset the CORE has none to complete. -/
theorem eventsBeforeACompletion : Obligations.EventsBeforeACompletion := by
  unfold Obligations.EventsBeforeACompletion
  refine ⟨fun s w x rest hw hagenda => ?_, fun s e x rest hx he hagenda => ?_⟩
  · obtain ⟨r, hr⟩ := coreTurn_completes (s := { s.acknowledge x with agenda := rest }) hw
    exact ⟨_, run_two_coreTurn (step_statusWrite hagenda) rfl hr, complete_done _ r, complete_inflight _ r,
      complete_agenda _ r⟩
  · have hidle : coreTurn { s.hardReset with agenda := rest } = .next { s.hardReset with agenda := rest } :=
      coreTurn_idle rfl
    exact ⟨_, run_two_coreTurn (step_reset hx he hagenda) rfl hidle, rfl, rfl, hardReset_reg s, rfl⟩

end Sys2Proof.Machine

/-! PROOFS. A soft reset is a hard reset (70_reset_and_hazards.md R262), and an accepted command that no reset removes is
completed (R275). -/

namespace Sys2Proof.Machine

/-- Settles O2: the CTRL write is the second event of `step_reset`. -/
theorem softResetIsHardReset : Obligations.SoftResetIsHardReset := by
  unfold Obligations.SoftResetIsHardReset
  exact fun s x rest hx hagenda => step_reset hx (.inr rfl) hagenda

/-- From `s` to `t` the command in flight and its operands stay (20_memory.md R82), and so does what decides whether the
events to come interrupt it: the agenda and the configuration. -/
structure State.HoldsCommand (s t : State) : Prop where
  inflight : t.inflight = s.inflight
  v : t.v = s.v
  scalar : t.scalar = s.scalar
  cfg : t.cfg = s.cfg
  agenda : t.agenda = s.agenda

theorem hostRead_holdsCommand (s : State) (off : Nat) : s.HoldsCommand (s.hostRead off) := ⟨rfl, rfl, rfl, rfl, rfl⟩

theorem busError_holdsCommand (s : State) (off width : Nat) : s.HoldsCommand (s.busError off width) :=
  ⟨rfl, rfl, rfl, rfl, rfl⟩

/-- While busy only a CTRL write could touch the command, and it does so only as a soft reset. -/
theorem hostWrite_holdsCommand {s : State} {off : Nat} {x : Word} (hbusy : s.busy = true)
    (hreset : off = 0x0010 → x.getLsbD 6 = false) : s.HoldsCommand (s.hostWrite off x) := by
  obtain h | ⟨hctrl, h⟩ | h | h := hostWrite_busy_cases off x hbusy
  case inr.inl => rw [h, writeCtrl_store s (hreset hctrl)]; exact ⟨rfl, rfl, rfl, rfl, rfl⟩
  all_goals rw [h]; exact ⟨rfl, rfl, rfl, rfl, rfl⟩

theorem interrupts_access_eq_false_iff (a : Access) (c : Config) :
    (Event.access a).interrupts c = false ↔ inWindow c a.addr = true ∧ a.softResets c = false := by
  rw [Event.interrupts, Bool.or_eq_false_iff, Bool.not_eq_false']

/-- An admitted write that is no soft reset is to another register than CTRL or has bit 6 clear. -/
theorem resetBit_eq_false_of_not_softResets {a : Access} {c : Config} {x : Word} (hadm : a.admitted c = true)
    (hkind : a.kind = .write x) (h : a.softResets c = false) (hoff : a.addr - c.base = 0x0010) :
    x.getLsbD 6 = false := by
  simpa [Access.softResets, hkind, hadm, hoff] using h

theorem performAccess_holdsCommand {a : Access} {s : State} (hbusy : s.busy = true)
    (h : (Event.access a).interrupts s.cfg = false) :
    ∃ t, performAccess a s = .next t ∧ s.HoldsCommand t := by
  obtain ⟨hwin, hreset⟩ := (interrupts_access_eq_false_iff a s.cfg).1 h
  obtain ⟨hout, _⟩ | ⟨_, _, hp⟩ | ⟨_, _, _, hp⟩ | ⟨x, _, hadm, hkind, hp⟩ := performAccess_cases a s
  · cases hwin.symm.trans hout
  · exact ⟨_, hp, busError_holdsCommand s _ _⟩
  · exact ⟨_, hp, hostRead_holdsCommand s _⟩
  · exact ⟨_, hp, hostWrite_holdsCommand hbusy (resetBit_eq_false_of_not_softResets hadm hkind hreset)⟩

/-- A step that is the CORE's turn completes the command in flight. -/
theorem step_completes {s t : State} {w : Word} (hturn : step s = coreTurn t) (hw : t.inflight = some w) :
    ∃ u, step s = .next u ∧ u.inflight = none ∧ u.status.done = true := by
  obtain ⟨r, hr⟩ := coreTurn_completes hw
  exact ⟨_, hturn.trans hr, complete_inflight t r, complete_done t r⟩

theorem run_succ {s t : State} (k : Nat) (h : step s = .next t) :
    Sys2Proof.core.run (k + 1) s = Sys2Proof.core.run k t := by
  simp only [Host.Core.run, core, h]

/-- Settles O57, by induction on the agenda: the CORE's turn, or the agenda's end, completes the command, and an access
that does not interrupt leaves it in flight for the rest of the agenda. -/
theorem acceptedCommandIsCompleted : Obligations.AcceptedCommandIsCompleted := by
  unfold Obligations.AcceptedCommandIsCompleted
  intro s w hw hquiet
  induction hagenda : s.agenda generalizing s with
  | nil =>
    obtain ⟨u, hu⟩ := step_completes (step_nil hagenda) hw
    exact ⟨0, s, u, Nat.zero_le _, rfl, hw, rfl, rfl, hu⟩
  | cons e rest ih =>
    rw [hagenda, List.forall_mem_cons] at hquiet
    obtain ⟨he, hrest⟩ := hquiet
    cases e with
    | hardReset => cases he
    | coreTurn =>
      obtain ⟨u, hu⟩ := step_completes (step_cons hagenda) hw
      exact ⟨0, s, u, Nat.zero_le _, rfl, hw, rfl, rfl, hu⟩
    | access a =>
      have hbusy : State.busy { s with agenda := rest } = true := congrArg Option.isSome hw
      obtain ⟨s', hstep, hholds⟩ := performAccess_holdsCommand hbusy he
      have hquiet' : ∀ e ∈ s'.agenda, e.interrupts s'.cfg = false := by
        rw [hholds.agenda, hholds.cfg]; exact hrest
      obtain ⟨k, t, u, hk, hrun, htw, htv, htscalar, hu⟩ :=
        ih s' (hholds.inflight.trans hw) hquiet' hholds.agenda
      exact ⟨k + 1, t, u, Nat.succ_le_succ hk, (run_succ k ((step_cons hagenda).trans hstep)).trans hrun, htw,
        htv.trans hholds.v, htscalar.trans hholds.scalar, hu⟩

end Sys2Proof.Machine
